-- ==== Sys2Proof/Word.lean ====
section
/-! DEFINITION. The register word and the byte of the QMX codec block. -/

namespace Sys2Proof

/-- A 32-bit register or source integer (R20, R26). -/
abbrev Word := BitVec 32

/-- A byte of host memory, a selector byte or a trailer byte (R44, R64, R74). -/
abbrev Byte := BitVec 8

end Sys2Proof
end

