-- ==== Sys2Proof/Config.lean ====
section
/-! DEFINITION. What an implementation or a platform fixes (R7), and the values the spec leaves free. -/

namespace Sys2Proof

/-- R85: which entries one promotion step raises. -/
inductive PromoteScope where
  | window
  | head
deriving DecidableEq, Repr

/-- The parameters of R7 that the spec leaves open or gives a choice. They are plain data of the machine that no step
changes (log 4), so a statement about every state is a statement about every value of them. -/
structure Params where
  /-- REG_BASE: host address of the register block. -/
  regBase : Word
  /-- MAX_N: the largest value count one ENCODE accepts. -/
  maxN : Nat
  /-- PROMOTE_SCOPE. -/
  promoteScope : PromoteScope
  /-- BUS_ERR: half-open ranges [lo, hi) of byte addresses that answer with a bus error. Every predicate on the 2^32
  addresses is such a list. -/
  busErr : List (Nat × Nat)
deriving DecidableEq, Repr

/-- R7: 0 <= MAX_N <= 2^28. -/
abbrev Params.wf (p : Params) : Prop := p.maxN ≤ 2 ^ 28

/-- DESIGN CHOICE (log 4, log 5): the values State.reset carries for the OPEN parameters; no bus error, the largest
MAX_N, the register block at 0, and the default PROMOTE_SCOPE of R7. -/
def Params.default : Params := { regBase := 0, maxN := 2 ^ 28, promoteScope := .window, busErr := [] }

namespace Config

/-- R7: WMARGIN, the sentinel entries past the end of the width scratch. -/
def wMargin : Nat := 256

/-- R7: SHORT_END_RESET, the reset value of CTRL.SHORT_END. -/
def shortEndReset : Bool := true

/-- R7: PAD_BYTE, the value of the alignment padding bytes. -/
def padByte : Byte := 0x00

/-- Free value (log 11, 12, 14): the byte at an address of a range whose contents R155, R171 or R173 leave unspecified,
drawn at the counter State.freeCtr. -/
opaque freeByte : Nat → Nat → Byte

/-- Free value (log 14): a result word R173 leaves unspecified; the second argument tells the registers apart. -/
opaque freeWord : Nat → Nat → Word

/-- Free value (log 12, 14): a choice R171 with R178, or R173, leaves open. -/
opaque freeBit : Nat → Bool

end Config

end Sys2Proof
end

