-- ==== Sys2Proof/Syntax.lean ====
section
/-! DEFINITION. The fifteen widths, the instructions (one constructor per row of spec/opcode_table.json) and the lines
of a buffer listing (R76). -/

namespace Sys2Proof

/-- R8: the fixed set of fifteen widths. Width 11 is not one of them. -/
inductive Width where
  | w0 | w1 | w2 | w3 | w4 | w5 | w6 | w7 | w8 | w9 | w10 | w12 | w16 | w21 | w32
deriving DecidableEq, Repr

/-- The twenty instructions. The five command words carry no operand (R63); a selector carries its block count
c = 16 - CNT (R65), 1 to 16 in a well-formed one. -/
inductive Instr where
  | cmdEncode
  | cmdDecode
  | cmdClassify
  | cmdVbyteEnc
  | cmdVbyteDec
  | selW0 (count : Nat)
  | selW1 (count : Nat)
  | selW2 (count : Nat)
  | selW3 (count : Nat)
  | selW4 (count : Nat)
  | selW5 (count : Nat)
  | selW6 (count : Nat)
  | selW7 (count : Nat)
  | selW8 (count : Nat)
  | selW9 (count : Nat)
  | selW10 (count : Nat)
  | selW12 (count : Nat)
  | selW16 (count : Nat)
  | selW21 (count : Nat)
  | selW32 (count : Nat)
deriving DecidableEq, Repr

/-- R76: the lines of a buffer listing, in address order. -/
inductive Line where
  | payload (bytes : List Byte)
  | sel (w : Width) (count : Nat)
  | run (w : Width) (blocks : Nat)
  | pad (p : Nat)
  | trailer (v : Nat)
deriving DecidableEq, Repr

end Sys2Proof
end

