-- ==== Sys2Proof/WellFormed.lean ====
section
/-! DEFINITION. The checks an instruction and a listing line pass before they are encoded (R65, R74, R76). -/

namespace Sys2Proof

/-- Why an instruction or a listing line is refused. -/
inductive IllFormed where
  /-- R76: a selector's count is at least 1. -/
  | countZero
  /-- R65: a selector's count is at most 16. -/
  | countAboveSixteen
  /-- R76: RUN needs at least one block. -/
  | runOfNoBlocks
  /-- R74: the trailer's value is below 2^32. -/
  | trailerTooLarge
deriving DecidableEq, Repr

/-- The count operand of a selector; a command word has none (R63). -/
def Instr.countOperand : Instr → Option Nat
  | .cmdEncode => none
  | .cmdDecode => none
  | .cmdClassify => none
  | .cmdVbyteEnc => none
  | .cmdVbyteDec => none
  | .selW0 c => some c
  | .selW1 c => some c
  | .selW2 c => some c
  | .selW3 c => some c
  | .selW4 c => some c
  | .selW5 c => some c
  | .selW6 c => some c
  | .selW7 c => some c
  | .selW8 c => some c
  | .selW9 c => some c
  | .selW10 c => some c
  | .selW12 c => some c
  | .selW16 c => some c
  | .selW21 c => some c
  | .selW32 c => some c

/-- R65: the count of a selector is 1 to 16. -/
def checkCount (c : Nat) : Except IllFormed Unit :=
  if c = 0 then .error .countZero else if 16 < c then .error .countAboveSixteen else .ok ()

/-- The check of an instruction. -/
def Instr.check (i : Instr) : Except IllFormed Unit :=
  match i.countOperand with
  | none => .ok ()
  | some c => checkCount c

/-- The check of a listing line (R76). -/
def Line.check : Line → Except IllFormed Unit
  | .payload _ => .ok ()
  | .sel _ c => checkCount c
  | .run _ blocks => if blocks = 0 then .error .runOfNoBlocks else .ok ()
  | .pad _ => .ok ()
  | .trailer v => if v < 2 ^ 32 then .ok () else .error .trailerTooLarge

/-- An instruction the encoding admits: every count from 1 to 16. -/
def Instr.wellFormed (i : Instr) : Bool := i.check.isOk

/-- A listing line the assembler admits. -/
def Line.wellFormed (l : Line) : Bool := l.check.isOk

end Sys2Proof
end

