-- ==== Sys2Proof/Decode.lean ====
section
/-! DEFINITION. The decoder of command words and selector bytes (R63 to R68), total on any bytes, and the encoder. -/

namespace Sys2Proof

/-- The number of bits of a width (R8). -/
def Width.bits : Width → Nat
  | .w0 => 0
  | .w1 => 1
  | .w2 => 2
  | .w3 => 3
  | .w4 => 4
  | .w5 => 5
  | .w6 => 6
  | .w7 => 7
  | .w8 => 8
  | .w9 => 9
  | .w10 => 10
  | .w12 => 12
  | .w16 => 16
  | .w21 => 21
  | .w32 => 32

/-- R14: WIDTHS, ascending. -/
def allWidths : List Width :=
  [.w0, .w1, .w2, .w3, .w4, .w5, .w6, .w7, .w8, .w9, .w10, .w12, .w16, .w21, .w32]

/-- The width of so many bits, none for a number outside WIDTHS (R8). -/
def Width.ofBits? (n : Nat) : Option Width := allWidths.find? (fun w => w.bits == n)

/-- R66: TYPE(w), the width-type code. -/
def Width.typeCode : Width → BitVec 4
  | .w0 => 0
  | .w1 => 1
  | .w2 => 2
  | .w3 => 3
  | .w4 => 4
  | .w5 => 5
  | .w6 => 6
  | .w7 => 7
  | .w8 => 8
  | .w9 => 9
  | .w10 => 10
  | .w12 => 11
  | .w16 => 12
  | .w21 => 13
  | .w32 => 14

/-- R66: WIDTH(t), the inverse; code 15 is reserved (R67). -/
def Width.ofTypeCode? (t : BitVec 4) : Option Width := allWidths.find? (fun w => w.typeCode == t)

/-- R68: the selector instruction of a width. -/
def Instr.sel (w : Width) (count : Nat) : Instr :=
  match w with
  | .w0 => .selW0 count
  | .w1 => .selW1 count
  | .w2 => .selW2 count
  | .w3 => .selW3 count
  | .w4 => .selW4 count
  | .w5 => .selW5 count
  | .w6 => .selW6 count
  | .w7 => .selW7 count
  | .w8 => .selW8 count
  | .w9 => .selW9 count
  | .w10 => .selW10 count
  | .w12 => .selW12 count
  | .w16 => .selW16 count
  | .w21 => .selW21 count
  | .w32 => .selW32 count

/-- Why the decoder names no instruction. -/
inductive DecodeReject where
  /-- R63, R147: a command word outside the five legal ones. -/
  | illegalCommand
  /-- R67, R118: a selector whose TYPE is 15. -/
  | reservedSelector
  /-- R75: an instruction is one byte (a selector) or four (a command word). -/
  | badLength
deriving DecidableEq, Repr

/-- R46: the `n` low bytes of `v`, least significant first. -/
def leBytes : Nat → Nat → List Byte
  | 0, _ => []
  | n + 1, v => BitVec.ofNat 8 v :: leBytes n (v / 256)

/-- R63: OPCODE is cmd[3:0] and every other bit must be 0. -/
def decodeCommand (cw : Word) : Except DecodeReject Instr :=
  let opcode := cw.extractLsb' 0 4
  let mbz := cw.extractLsb' 4 28
  if mbz ≠ 0 then .error .illegalCommand
  else if opcode = 1 then .ok .cmdEncode
  else if opcode = 2 then .ok .cmdDecode
  else if opcode = 3 then .ok .cmdClassify
  else if opcode = 4 then .ok .cmdVbyteEnc
  else if opcode = 5 then .ok .cmdVbyteDec
  else .error .illegalCommand

/-- R65: the block count of a CNT field. -/
def countOfField (cnt : BitVec 4) : Nat := 16 - cnt.toNat

/-- R64: TYPE is sel[7:4], CNT is sel[3:0]. -/
def decodeSelector (sel : Byte) : Except DecodeReject Instr :=
  match Width.ofTypeCode? (sel.extractLsb' 4 4) with
  | none => .error .reservedSelector
  | some w => .ok (.sel w (countOfField (sel.extractLsb' 0 4)))

/-- Decoding of an instruction's bytes, the first at the lowest address (R75). -/
def decode (bytes : List Byte) : Except DecodeReject Instr :=
  match bytes with
  | [sel] => decodeSelector sel
  | [b0, b1, b2, b3] => decodeCommand (b3 ++ b2 ++ b1 ++ b0)
  | _ => .error .badLength

/-- R65: the CNT field of a count, the ones' complement of count - 1 in 4 bits. -/
def fieldOfCount (count : Nat) : BitVec 4 := ~~~(BitVec.ofNat 4 (count - 1))

/-- R64, R94: the selector byte of a width and a count. -/
def selectorByte (w : Width) (count : Nat) : Byte := w.typeCode ++ fieldOfCount count

/-- R63: a command word, as the four bytes of the CMD register, least significant first (log 25). -/
def commandBytes (cw : Word) : List Byte := leBytes 4 cw.toNat

/-- The bytes of an instruction (R63, R68). -/
def encode : Instr → List Byte
  | .cmdEncode => commandBytes 1
  | .cmdDecode => commandBytes 2
  | .cmdClassify => commandBytes 3
  | .cmdVbyteEnc => commandBytes 4
  | .cmdVbyteDec => commandBytes 5
  | .selW0 c => [selectorByte .w0 c]
  | .selW1 c => [selectorByte .w1 c]
  | .selW2 c => [selectorByte .w2 c]
  | .selW3 c => [selectorByte .w3 c]
  | .selW4 c => [selectorByte .w4 c]
  | .selW5 c => [selectorByte .w5 c]
  | .selW6 c => [selectorByte .w6 c]
  | .selW7 c => [selectorByte .w7 c]
  | .selW8 c => [selectorByte .w8 c]
  | .selW9 c => [selectorByte .w9 c]
  | .selW10 c => [selectorByte .w10 c]
  | .selW12 c => [selectorByte .w12 c]
  | .selW16 c => [selectorByte .w16 c]
  | .selW21 c => [selectorByte .w21 c]
  | .selW32 c => [selectorByte .w32 c]

/-- The decoder on a row of spec/opcode_table.json: the `nbits` low bits of `w` as bytes, the first lowest. -/
def decodeTableWord (nbits w : Nat) : Option Instr :=
  match decode (leBytes (nbits / 8) w) with
  | .ok i => some i
  | .error _ => none

end Sys2Proof
end

