-- ==== Sys2Proof/Machine/State.lean ====
section
/-! DEFINITION. The state of one QMX codec block with the host memory it masters, and its value after reset. -/

namespace Sys2Proof.Machine

/-- What stops the machine itself. -/
inductive Fault where
  /-- Raised by an engine access that reaches address 2^32 or above, which does not exist (R44). No command that passed
  the range checks of R51 reaches it. Safe (log 15). -/
  | outsideAddressSpace
deriving DecidableEq, Repr

/-- What the model gives no meaning to. -/
inductive Refusal where
  /-- Raised by an arm of exec whose instruction has no meaning yet. Safe. -/
  | notModelled (mnemonic : String)
  /-- Raised by a host access to the register block that is not an aligned 32-bit access inside its 64 words: R45 says
  a model refuses it. Safe (log 16). -/
  | unsupportedRegisterAccess
  /-- Raised by a host access to memory at an address where the platform answers with an error (R56 leaves what the
  host then sees to the platform). Safe (log 17). -/
  | hostMemoryError
deriving DecidableEq, Repr

/-- R154: the errors that end a command. -/
inductive ErrCode where
  | illegalCmd
  | misaligned
  | addrRange
  | overlap
  | tooLong
  | capacity
  | badTrailer
  | badSelector
  | selectorOverrun
  | payloadOverrun
  | internal
  | busError
deriving DecidableEq, Repr

/-- R34: the engine is IDLE, or BUSY with one command. -/
inductive Phase where
  /-- STATUS.BUSY = 0. -/
  | idle
  /-- A command is latched (R145) and has not begun its work. -/
  | started
  /-- DECODE is in the selector loop of R115. -/
  | unpack
  /-- The host broke R173 while a command ran: its outcome is unspecified (log 14). -/
  | breached
deriving DecidableEq, Repr

/-- The width of a host access to the register block (R20, R45). -/
inductive AccessWidth where
  | bits8
  | bits16
  | bits32
  | bits64
deriving DecidableEq, Repr

/-- What the host, or the platform for it, does next (log 1). -/
inductive HostAction where
  /-- A write to the register block at a host address (R45); WR of R76. -/
  | regWrite (w : AccessWidth) (addr v : Word)
  /-- A read of the register block at a host address (R45); RD of R76. -/
  | regRead (w : AccessWidth) (addr : Word)
  /-- A host write of one byte of host memory. -/
  | memWrite (addr : Word) (v : Byte)
  /-- A host read of one byte of host memory. -/
  | memRead (addr : Word)
  /-- The host samples the IRQ output (R30, R42). -/
  | irqRead
  /-- The reset input is asserted and released (R169). -/
  | hwReset
  /-- The host does nothing while the engine takes one step. -/
  | engineTurn
  /-- WAIT of R76: the host waits until STATUS.BUSY reads 0. -/
  | wait
deriving DecidableEq, Repr

/-- Host memory: the bytes that differ from what an unlisted address reads as, addresses strictly rising. -/
abbrev Memory := List Host.Cell

/-- The machine. -/
structure State where
  /-- CTRL.IE (R23). -/
  ie : Bool
  /-- CTRL.SHORT_END (R23). -/
  shortEnd : Bool
  /-- STATUS.DONE (R24). -/
  done : Bool
  /-- STATUS.ERR (R24). -/
  err : Bool
  /-- STATUS.CMD_LOST (R24). -/
  cmdLost : Bool
  /-- STATUS.ERRCODE (R24). -/
  errcode : BitVec 8
  /-- CMD: the last command word that started a command (R25). -/
  cmd : Word
  /-- SRC_ADDR (R26). -/
  srcAddr : Word
  /-- SRC_LEN (R26). -/
  srcLen : Word
  /-- DST_ADDR (R26). -/
  dstAddr : Word
  /-- DST_LEN (R26). -/
  dstLen : Word
  /-- ARG (R26). -/
  arg : Word
  /-- RESULT0 (R27). -/
  result0 : Word
  /-- RESULT1 (R27). -/
  result1 : Word
  /-- ERRINFO (R28). -/
  errinfo : Word
  /-- The engine phase (R34); STATUS.BUSY is computed from it. -/
  phase : Phase
  /-- OP, the latched command word (R33). -/
  op : Word
  /-- SA, the latched SRC_ADDR (R33). -/
  sa : Word
  /-- SL, the latched SRC_LEN (R33). -/
  sl : Word
  /-- DA, the latched DST_ADDR (R33). -/
  da : Word
  /-- DL, the latched DST_LEN (R33). -/
  dl : Word
  /-- AR, the latched ARG (R33). -/
  ar : Word
  /-- SE, the latched CTRL.SHORT_END (R33). -/
  se : Bool
  /-- The running command has performed a MemWrite (R155). -/
  wrote : Bool
  /-- W, the width scratch (R35): the entries ENCODE initialised. -/
  widths : List Nat
  /-- SELBUF, the selector scratch (R36). -/
  selbuf : List Byte
  /-- p, the promoter position (R37). -/
  p : Nat
  /-- rs, the current run's start (R37). -/
  rs : Nat
  /-- rl, the current run's length (R37). -/
  rl : Nat
  /-- b, the block start within the source array (R37). -/
  b : Nat
  /-- ob, the number of payload bytes emitted (R37). -/
  ob : Nat
  /-- L, the compressed buffer's length in bytes (R40). -/
  bufLen : Nat
  /-- T, the trailer's length in bytes (R40). -/
  trlLen : Nat
  /-- V, the trailer's value (R40). -/
  trlVal : Nat
  /-- S, the byte offset of the first selector (R40). -/
  selStart : Nat
  /-- sc, the selector cursor: the program counter (R38). -/
  sc : Nat
  /-- pp, the payload cursor (R39). -/
  pp : Nat
  /-- oc, the number of output values written (R39). -/
  oc : Nat
  /-- Host memory (R44). -/
  mem : Memory
  /-- The parameters of R7. No step changes them (log 4). -/
  params : Params
  /-- The host's actions still to come, the next one first (log 1). -/
  host : List HostAction
  /-- The host has not observed BUSY = 0 since it started the last command (R173, log 33). -/
  unseen : Bool
  /-- What the host's last read returned (log 10). -/
  rdata : Word
  /-- The counter free values are drawn at (log 11). -/
  freeCtr : Nat
deriving DecidableEq, Repr

/-- R169: the state after a hardware reset. The latched context, the scratch and the cursors, which R169 leaves
unspecified and unobservable, and the model's own fields hold the values of log 4, 6, 7, 8, 9 and 10. -/
def State.reset : State where
  ie := false
  shortEnd := Config.shortEndReset
  done := false
  err := false
  cmdLost := false
  errcode := 0
  cmd := 0
  srcAddr := 0
  srcLen := 0
  dstAddr := 0
  dstLen := 0
  arg := 0
  result0 := 0
  result1 := 0
  errinfo := 0
  phase := .idle
  op := 0
  sa := 0
  sl := 0
  da := 0
  dl := 0
  ar := 0
  se := false
  wrote := false
  widths := []
  selbuf := []
  p := 0
  rs := 0
  rl := 0
  b := 0
  ob := 0
  bufLen := 0
  trlLen := 0
  trlVal := 0
  selStart := 0
  sc := 0
  pp := 0
  oc := 0
  mem := []
  params := Params.default
  host := []
  unseen := false
  rdata := 0
  freeCtr := 0

end Sys2Proof.Machine
end

