-- ==== Sys2Proof/Machine/Flags.lean ====
section
/-! DEFINITION. The flags (R32): the STATUS and CTRL words, the IRQ output, the error codes, and the two register
writes that change flags. -/

namespace Sys2Proof.Machine

/-- STATUS.BUSY (R24, R34). -/
def State.busy (s : State) : Bool := s.phase != .idle

/-- R30: the level-sensitive interrupt output. -/
def State.irq (s : State) : Bool := s.ie && (s.done || s.err)

/-- R154: the code of an error in STATUS.ERRCODE. -/
def ErrCode.code : ErrCode → BitVec 8
  | .illegalCmd => 0x01
  | .misaligned => 0x02
  | .addrRange => 0x03
  | .overlap => 0x04
  | .tooLong => 0x05
  | .capacity => 0x06
  | .badTrailer => 0x07
  | .badSelector => 0x08
  | .selectorOverrun => 0x09
  | .payloadOverrun => 0x0A
  | .internal => 0x0B
  | .busError => 0x0C

/-- R23: what CTRL reads as; SRST and the reserved bits read 0. -/
def State.ctrlWord (s : State) : Word :=
  (0 : BitVec 30) ++ BitVec.ofBool s.shortEnd ++ BitVec.ofBool s.ie

/-- R24: what STATUS reads as; the reserved bits read 0. -/
def State.statusWord (s : State) : Word :=
  (0 : BitVec 16) ++ s.errcode ++ (0 : BitVec 4) ++ BitVec.ofBool s.cmdLost ++ BitVec.ofBool s.err
    ++ BitVec.ofBool s.done ++ BitVec.ofBool s.busy

/-- R24, R159: a write to STATUS clears each W1C bit written as 1; a 1 to ERR also sets ERRCODE to 0. It is the host's
acknowledgement of a completion, the only return from an error the block has. -/
def acknowledge (s : State) (v : Word) : State :=
  { s with
    done := s.done && !v.getLsbD 1
    err := s.err && !v.getLsbD 2
    cmdLost := s.cmdLost && !v.getLsbD 3
    errcode := if v.getLsbD 2 then 0 else s.errcode }

/-- R23: an ordinary write of CTRL (bit 31 clear) sets IE and SHORT_END. -/
def setCtrl (s : State) (v : Word) : State :=
  { s with ie := v.getLsbD 0, shortEnd := v.getLsbD 1 }

end Sys2Proof.Machine
end

