-- ==== Sys2Proof/Machine/Ops.lean ====
section
/-! DEFINITION. The shared operations: host memory, MemRead and MemWrite (R12), command start (R145), successful
completion (R146), error completion (R155) and reset (R169, R171). -/

namespace Sys2Proof.Machine

/-! ## Host memory -/

/-- What an address no write has changed reads as (DESIGN CHOICE, log 6). -/
def Memory.unlisted : Byte := 0x00

/-- The byte at an address. -/
def Memory.read : Memory → Nat → Byte
  | [], _ => Memory.unlisted
  | c :: rest, a => if c.1 = a then c.2 else Memory.read rest a

/-- Store a byte and keep the canonical form. -/
def Memory.write : Memory → Nat → Byte → Memory
  | [], a, v => if v = Memory.unlisted then [] else [(a, v)]
  | c :: rest, a, v =>
    if a < c.1 then (if v = Memory.unlisted then c :: rest else (a, v) :: c :: rest)
    else if a = c.1 then (if v = Memory.unlisted then rest else (a, v) :: rest)
    else c :: Memory.write rest a v

/-- The canonical form above a lower bound: addresses strictly rising and below 2^32 (R44), and no entry equal to what
an unlisted address reads as. -/
def Memory.wfFrom : Nat → Memory → Bool
  | _, [] => true
  | lo, c :: rest =>
    decide (lo ≤ c.1) && decide (c.1 < 2 ^ 32) && (c.2 != Memory.unlisted) && Memory.wfFrom (c.1 + 1) rest

/-- The canonical form of a memory. -/
def Memory.wf (m : Memory) : Bool := Memory.wfFrom 0 m

/-- R12, R46: the `n` bytes at `a` as a little-endian number. -/
def Memory.readLE (m : Memory) : Nat → Nat → Nat
  | _, 0 => 0
  | a, n + 1 => (Memory.read m a).toNat + 256 * Memory.readLE m (a + 1) n

/-- R12, R46: store the `n` low bytes of `v` at `a`, least significant first. -/
def Memory.writeLE : Memory → Nat → Nat → Nat → Memory
  | m, _, 0, _ => m
  | m, a, n + 1, v => Memory.writeLE (Memory.write m a (BitVec.ofNat 8 v)) (a + 1) n (v / 256)

/-- Every byte of the `len` bytes at `a` takes a free value, drawn at `ctr`. -/
def Memory.scramble (m : Memory) (ctr : Nat) : Nat → Nat → Memory
  | _, 0 => m
  | a, len + 1 => Memory.scramble (Memory.write m a (Config.freeByte ctr a)) ctr (a + 1) len

/-- A half-open interval of byte addresses (R50). -/
structure Range where
  lo : Nat
  hi : Nat
deriving DecidableEq, Repr

/-- No address. -/
def Range.none : Range := ⟨0, 0⟩

/-- Membership. -/
abbrev Range.mem (r : Range) (a : Nat) : Prop := r.lo ≤ a ∧ a < r.hi

/-- The bytes of a range become unspecified; addresses at and above 2^32 do not exist (R44). -/
def Memory.scrambleRange (m : Memory) (ctr : Nat) (r : Range) : Memory :=
  Memory.scramble m ctr r.lo (min r.hi (2 ^ 32) - r.lo)

/-! ## Engine accesses -/

/-- How a command's work ends before its end: by the error primitive of R13 at a state, or by the model's fault. -/
inductive Stop where
  | raise (s : State) (e : ErrCode) (info : Nat)
  | fault (f : Fault)
deriving DecidableEq, Repr

/-- A step of a command's work. -/
abbrev Res (α : Type) := Except Stop α

/-- R156: BUS_ERR(a). -/
def busErrAt (p : Params) (a : Nat) : Bool := p.busErr.any (fun r => decide (r.1 ≤ a) && decide (a < r.2))

/-- R156: BUS_ERR holds at one of `a .. a+n-1`. -/
def anyBusErr (p : Params) (a n : Nat) : Bool := (List.range n).any (fun i => busErrAt p (a + i))

/-- R156: an access to `a .. a+n-1` completes, or raises BUS_ERROR with its lowest address. An access past the top of
the address space is the model's fault (log 15). -/
def access (s : State) (a n : Nat) : Res Unit :=
  if 2 ^ 32 < a + n then .error (.fault .outsideAddressSpace)
  else if anyBusErr s.params a n then .error (.raise s .busError a)
  else .ok ()

/-- R12: MemRead(a, n). -/
def memRead (s : State) (a n : Nat) : Res Nat :=
  match access s a n with
  | .error e => .error e
  | .ok _ => .ok (Memory.readLE s.mem a n)

/-- R12: MemWrite(a, n, v). A write that gets a bus error is no MemWrite performed in the sense of R155, not even when it
is the command's first (log 32). -/
def memWrite (s : State) (a n v : Nat) : Res State :=
  match access s a n with
  | .error e => .error e
  | .ok _ => .ok { s with mem := Memory.writeLE s.mem a n v, wrote := true }

/-- The 32-bit words at `a`, `a + 4`, …. -/
def readWords (s : State) : Nat → Nat → Res (List Word)
  | _, 0 => .ok []
  | a, k + 1 =>
    match memRead s a 4 with
    | .error e => .error e
    | .ok v =>
      match readWords s (a + 4) k with
      | .error e => .error e
      | .ok vs => .ok (BitVec.ofNat 32 v :: vs)

/-- Store words of `n` bytes at `a`, `a + n`, …. -/
def writeAll (n : Nat) : State → Nat → List Nat → Res State
  | s, _, [] => .ok s
  | s, a, v :: vs =>
    match memWrite s a n v with
    | .error e => .error e
    | .ok s' => writeAll n s' (a + n) vs

/-! ## The life cycle of a command -/

/-- R145: a CMD write while idle starts a command with the word `cw`. -/
def startCommand (s : State) (cw : Word) : State :=
  { s with
    cmd := cw
    done := false
    err := false
    errcode := 0
    errinfo := 0
    op := cw
    sa := s.srcAddr
    sl := s.srcLen
    da := s.dstAddr
    dl := s.dstLen
    ar := s.arg
    se := s.shortEnd
    wrote := false
    unseen := true
    phase := .started }

/-- R146: successful completion with two results. -/
def complete (s : State) (r0 r1 : Nat) : State :=
  { s with
    result0 := BitVec.ofNat 32 r0
    result1 := BitVec.ofNat 32 r1
    phase := .idle
    done := true }

/-- R155: error completion, the block's one way of taking an exception. `dest` is the command's destination range: it
becomes unspecified when the command has performed a MemWrite (free value, log 11). -/
def raiseError (s : State) (dest : Range) (e : ErrCode) (info : Nat) : State :=
  { s with
    mem := if s.wrote then Memory.scrambleRange s.mem s.freeCtr dest else s.mem
    freeCtr := s.freeCtr + 1
    errinfo := BitVec.ofNat 32 info
    errcode := e.code
    phase := .idle
    err := true }

/-- The outcome of a command's work: its next state, an error completion over its destination range, or the fault. -/
def finish (dest : State → Range) : Res State → Host.Outcome State Fault Refusal
  | .ok s => .next s
  | .error (.raise s e info) => .next (raiseError s (dest s) e info)
  | .error (.fault f) => .fault f

/-- R169: every register and the engine take their reset values; memory is as given. The parameters, the host's
actions and the model's own data stay. -/
def resetTo (s : State) (m : Memory) : State :=
  { State.reset with
    mem := m
    params := s.params
    host := s.host
    rdata := s.rdata
    freeCtr := s.freeCtr + 1 }

end Sys2Proof.Machine
end

