-- ==== Sys2Proof/Machine/Operands.lean ====
section
/-! DEFINITION. The operand forms: the block sizes of a width (R69), the ranges of a command (R50) and the static checks
of the latched operands (R48, R51, R52, R157). -/

namespace Sys2Proof

/-- R69: the three kinds of width. A packed width has one or two 16-byte units, a direct one stores whole bytes. -/
inductive WidthKind where
  | zero
  | packed (units : Nat)
  | direct (bytes : Nat)
deriving DecidableEq, Repr

/-- R69: the kind of each width. -/
def Width.kind : Width → WidthKind
  | .w0 => .zero
  | .w1 => .packed 1
  | .w2 => .packed 1
  | .w3 => .packed 1
  | .w4 => .packed 1
  | .w5 => .packed 1
  | .w6 => .packed 1
  | .w7 => .packed 2
  | .w8 => .direct 1
  | .w9 => .packed 2
  | .w10 => .packed 1
  | .w12 => .packed 2
  | .w16 => .direct 2
  | .w21 => .packed 2
  | .w32 => .direct 4

/-- R69: N(w), the natural block size in integers. -/
def Width.blockInts : Width → Nat
  | .w0 => 256
  | .w1 => 128
  | .w2 => 64
  | .w3 => 40
  | .w4 => 32
  | .w5 => 24
  | .w6 => 20
  | .w7 => 36
  | .w8 => 16
  | .w9 => 28
  | .w10 => 12
  | .w12 => 20
  | .w16 => 8
  | .w21 => 12
  | .w32 => 4

/-- R69: B(w), the payload bytes of a full block. -/
def Width.blockBytes (w : Width) : Nat :=
  match w.kind with
  | .zero => 0
  | .packed u => 16 * u
  | .direct _ => 16

/-- R119: the payload bytes a block consumes, or R96: produces, when `r` of its values lie inside the array. -/
def Width.bytesFor (w : Width) (r : Nat) : Nat :=
  match w.kind with
  | .zero => 0
  | .packed u => 16 * u
  | .direct k => r * k

/-- R14: mask(w) = 2^w - 1. -/
def Width.mask (w : Width) : Nat := 2 ^ w.bits - 1

end Sys2Proof

namespace Sys2Proof.Machine

/-- R50: the source range of ENCODE and DECODE. -/
def wordSource (s : State) : Range := ⟨s.sa.toNat, s.sa.toNat + 4 * s.sl.toNat⟩

/-- R50: the source range of VBYTE_DEC. -/
def byteSource (s : State) : Range := ⟨s.sa.toNat, s.sa.toNat + s.sl.toNat⟩

/-- R50: the destination range of ENCODE. -/
def encodeDest (s : State) : Range := ⟨s.da.toNat, s.da.toNat + s.dl.toNat⟩

/-- R50: the destination range of DECODE. -/
def decodeDest (s : State) : Range := ⟨s.da.toNat, s.da.toNat + 4 * s.dl.toNat⟩

/-- R50: VBYTE_DEC, CLASSIFY, VBYTE_ENC and an illegal command have no destination range. -/
def noDest (_ : State) : Range := Range.none

/-- The source range of the running command, by its latched command word (R33, R50). -/
def runningSource (s : State) : Range :=
  if s.op = 1 ∨ s.op = 2 then wordSource s else if s.op = 5 then byteSource s else Range.none

/-- The destination range of the running command, by its latched command word (R33, R50). -/
def runningDest (s : State) : Range :=
  if s.op = 1 then encodeDest s else if s.op = 2 then decodeDest s else Range.none

/-- R52: both ranges are non-empty and share an address. -/
def rangesOverlap (a b : Range) : Bool :=
  decide (a.lo < a.hi) && decide (b.lo < b.hi) && decide (a.lo < b.hi) && decide (b.lo < a.hi)

/-- R51: a range that wraps past the top of the address space. -/
def rangeWraps (r : Range) : Bool := decide (2 ^ 32 < r.hi)

/-- R48, R51, R52, R157: the static checks of ENCODE in their order, with the error and ERRINFO of the first that
fails. -/
def encodeChecks (s : State) : Option (ErrCode × Nat) :=
  if s.sa.toNat % 4 ≠ 0 then some (.misaligned, 1)
  else if s.da.toNat % 4 ≠ 0 then some (.misaligned, 2)
  else if s.params.maxN < s.sl.toNat then some (.tooLong, 0)
  else if rangeWraps (wordSource s) then some (.addrRange, 1)
  else if rangeWraps (encodeDest s) then some (.addrRange, 2)
  else if rangesOverlap (wordSource s) (encodeDest s) then some (.overlap, 0)
  else none

/-- R48, R51, R52, R157: the static checks of DECODE in their order. -/
def decodeChecks (s : State) : Option (ErrCode × Nat) :=
  if s.sa.toNat % 4 ≠ 0 then some (.misaligned, 1)
  else if s.da.toNat % 4 ≠ 0 then some (.misaligned, 2)
  else if rangeWraps (wordSource s) then some (.addrRange, 1)
  else if rangeWraps (decodeDest s) then some (.addrRange, 2)
  else if rangesOverlap (wordSource s) (decodeDest s) then some (.overlap, 0)
  else none

/-- R153: the static check of VBYTE_DEC. -/
def vbyteDecChecks (s : State) : Option (ErrCode × Nat) :=
  if rangeWraps (byteSource s) then some (.addrRange, 1) else none

end Sys2Proof.Machine
end

