-- ==== Sys2Proof/Machine/Classifier.lean ====
section
/-! DEFINITION. The width classifier (R77 to R81) and the meaning of CLASSIFY (R151). -/

namespace Sys2Proof.Machine

/-- R77: the minimal supported width of a value; the value 1 is the width-0 marker. -/
def classify (v : Word) : Width :=
  if v.toNat = 1 then .w0
  else if v.toNat ≤ 0x1 then .w1
  else if v.toNat ≤ 0x3 then .w2
  else if v.toNat ≤ 0x7 then .w3
  else if v.toNat ≤ 0xF then .w4
  else if v.toNat ≤ 0x1F then .w5
  else if v.toNat ≤ 0x3F then .w6
  else if v.toNat ≤ 0x7F then .w7
  else if v.toNat ≤ 0xFF then .w8
  else if v.toNat ≤ 0x1FF then .w9
  else if v.toNat ≤ 0x3FF then .w10
  else if v.toNat ≤ 0xFFF then .w12
  else if v.toNat ≤ 0xFFFF then .w16
  else if v.toNat ≤ 0x1FFFFF then .w21
  else .w32

/-- R81: the width array of a source array, with the sentinel margin. -/
def initWidths (src : List Word) : List Nat :=
  src.map (fun v => (classify v).bits) ++ List.replicate Config.wMargin 0

/-- CMD CLASSIFY (R151). -/
def execCmdClassify (s : State) : Host.Outcome State Fault Refusal :=
  .next (complete s (classify s.ar).bits (classify s.ar).typeCode.toNat)

end Sys2Proof.Machine
end

