-- ==== Sys2Proof/Machine/Promoter.lean ====
section
/-! DEFINITION. The block promoter (R82 to R92): pass 1, the sequential scan, and the runs it leaves. -/

namespace Sys2Proof

/-- R82: NEXT(w), the next width of the promotion chain; 64 is not a width. -/
def Width.next : Width → Nat
  | .w0 => 1
  | .w1 => 2
  | .w2 => 3
  | .w3 => 4
  | .w4 => 5
  | .w5 => 6
  | .w6 => 7
  | .w7 => 8
  | .w8 => 9
  | .w9 => 10
  | .w10 => 12
  | .w12 => 16
  | .w16 => 21
  | .w21 => 32
  | .w32 => 64

end Sys2Proof

namespace Sys2Proof.Machine

/-- The largest entry of a list, 0 for none. -/
def maxEntry (l : List Nat) : Nat := l.foldr max 0

/-- R83: pass 1 on so many groups of four entries. -/
def pass1Groups : Nat → List Nat → List Nat
  | 0, ws => ws
  | _ + 1, [] => []
  | g + 1, ws => List.replicate (ws.take 4).length (maxEntry (ws.take 4)) ++ pass1Groups g (ws.drop 4)

/-- R83: pass 1 for `n` values; the last group may reach into the sentinel margin. -/
def pass1 (n : Nat) (ws : List Nat) : List Nat := pass1Groups ((n + 3) / 4) ws

/-- The entries `[p, p + len)`. -/
def window (ws : List Nat) (p len : Nat) : List Nat := (ws.drop p).take len

/-- Change the entries `[p, p + len)` and no other. -/
def mapWindow (f : Nat → Nat) (ws : List Nat) (p len : Nat) : List Nat :=
  ws.take p ++ (window ws p len).map f ++ ws.drop (p + len)

/-- R85: one promotion step at `p` from width `w`. -/
def promoteStep (scope : PromoteScope) (ws : List Nat) (p : Nat) (w : Width) : List Nat :=
  match scope with
  | .window => mapWindow (fun x => max x w.next) ws p w.blockInts
  | .head => mapWindow (fun _ => w.next) ws p 1

/-- R87: the width the short-end rule gives `rem` remaining values whose largest width is `m`. -/
def shortEndWidth (rem m : Nat) : Option Nat :=
  if rem < 16 ∧ m ≤ 8 then some 8
  else if rem < 8 ∧ m ≤ 16 then some 16
  else if rem < 4 then some 32
  else none

/-- R84: the sequential scan from position `p`, with the final position. An error is INTERNAL at the position it
carries (R88). `fuel` bounds the iterations (R90, log 18). -/
def scan (scope : PromoteScope) (se : Bool) (n : Nat) : Nat → Nat → List Nat → Except Nat (Nat × List Nat)
  | 0, p, _ => .error p
  | fuel + 1, p, ws =>
    if n ≤ p then .ok (p, ws)
    else
      match if se then shortEndWidth (n - p) (maxEntry (window ws p (n - p))) else none with
      | some width => .ok (p, mapWindow (fun _ => width) ws p (n - p))
      | none =>
        match Width.ofBits? (ws.getD p 64) with
        | none => .error p
        | some w =>
          if (window ws p w.blockInts).any (fun x => decide (w.bits < x)) then
            scan scope se n fuel p (promoteStep scope ws p w)
          else
            scan scope se n fuel (p + w.blockInts)
              (mapWindow (fun _ => w.bits) ws p w.blockInts)

/-- R90: at most 15 promotions and one advance for each value. -/
def scanFuel (n : Nat) : Nat := 16 * n + 16

/-- R84: pass 1 and the scan. -/
def promote (scope : PromoteScope) (se : Bool) (n : Nat) (ws : List Nat) : Except Nat (Nat × List Nat) :=
  scan scope se n (scanFuel n) 0 (pass1 n ws)

/-- R91: a maximal span of one width: its start, its length and the width. -/
structure Run where
  start : Nat
  len : Nat
  width : Width
deriving DecidableEq, Repr

/-- R91: the runs of a list of widths whose first index is `i`. -/
def runsFrom : Nat → List Width → List Run
  | _, [] => []
  | i, w :: ws =>
    match runsFrom (i + 1) ws with
    | [] => [⟨i, 1, w⟩]
    | r :: rs => if r.width = w then ⟨i, r.len + 1, w⟩ :: rs else ⟨i, 1, w⟩ :: r :: rs

/-- The entries as widths; the error is the index of the first that is none of WIDTHS (R82, log 21). -/
def toWidths : Nat → List Nat → Except Nat (List Width)
  | _, [] => .ok []
  | i, x :: xs =>
    match Width.ofBits? x with
    | none => .error i
    | some w =>
      match toWidths (i + 1) xs with
      | .error j => .error j
      | .ok ws => .ok (w :: ws)

end Sys2Proof.Machine
end

