-- ==== Sys2Proof/Machine/Pack.lean ====
section
/-! DEFINITION. The pack engine (R93 to R114): blocks, selectors and the payload of a run. -/

namespace Sys2Proof.Machine

/-- R95: the value of a block's position `i` of the source array, 0 past its end. -/
def sourceAt (src : List Word) (i : Nat) : Nat := (src.getD i 0).toNat

/-- R70: X_l, the column value of column `l` from rows `0 .. rows-1`. -/
def columnValue (w : Width) (v : Nat → Nat) (l : Nat) : Nat → Nat
  | 0 => 0
  | rows + 1 => columnValue w v l rows ||| ((v (4 * rows + l) &&& w.mask) <<< (rows * w.bits))

/-- R70: the bytes of unit `h`, its four column words little-endian. -/
def unitBytes (w : Width) (v : Nat → Nat) (h : Nat) : List Byte :=
  (List.range 4).flatMap (fun l => leBytes 4 ((columnValue w v l (w.blockInts / 4) >>> (32 * h)) % 2 ^ 32))

/-- R100 to R114: packblock_w(v, r). A packed width writes its whole block, a direct width its first `r` values, width 0
nothing. -/
def packBlock (w : Width) (v : Nat → Nat) (r : Nat) : List Byte :=
  match w.kind with
  | .zero => []
  | .packed units => (List.range units).flatMap (unitBytes w v)
  | .direct bytes => (List.range r).flatMap (fun j => leBytes bytes (v j &&& w.mask))

/-- R93: the number of blocks of a run. -/
def Run.blocks (r : Run) : Nat := (r.len + r.width.blockInts - 1) / r.width.blockInts

/-- R94: the counts of the selectors of so many blocks, batches of at most 16; `fuel` is at least the block count. -/
def selectorCounts : Nat → Nat → List Nat
  | 0, _ => []
  | fuel + 1, nblk => if nblk = 0 then [] else min 16 nblk :: selectorCounts fuel (nblk - min 16 nblk)

/-- R94: the selector bytes of a run. -/
def runSelectors (r : Run) : List Byte :=
  (selectorCounts r.blocks r.blocks).map (selectorByte r.width)

/-- R94: the payload bytes of a run, block after block. -/
def runPayload (src : List Word) (r : Run) : List Byte :=
  (List.range r.blocks).flatMap (fun q =>
    let b := r.start + q * r.width.blockInts
    packBlock r.width (fun j => sourceAt src (b + j)) (min r.width.blockInts (src.length - b)))

end Sys2Proof.Machine
end

