-- ==== Sys2Proof/Machine/Trailer.lean ====
section
/-! DEFINITION. The trailer codec (R138 to R144), the alignment padding (R140), and the meanings of VBYTE_ENC (R152) and
VBYTE_DEC (R153). -/

namespace Sys2Proof.Machine

/-- R138: the byte count of the encoding of a value. -/
def vlen (v : Nat) : Nat :=
  if v < 2 ^ 7 then 1 else if v < 2 ^ 14 then 2 else if v < 2 ^ 21 then 3 else if v < 2 ^ 28 then 4 else 5

/-- R74, R139: the groups of seven bits of a value, least significant first. -/
def vbyteGroups : Nat → Nat → List Byte
  | 0, _ => []
  | t + 1, v => BitVec.ofNat 8 (v % 128) :: vbyteGroups t (v / 128)

/-- R139: the encoder. The terminator 0x80 is in the byte at the lowest address. -/
def vbyteEnc (v : Nat) : List Byte :=
  match vbyteGroups (vlen v) v with
  | [] => []
  | b :: bs => (b ||| 0x80) :: bs

/-- R140: the smallest self-consistent trailer length for `x = K + P`. -/
def trailerLen (x : Nat) : Nat :=
  if vlen (x + 1) = 1 then 1 else if vlen (x + 2) = 2 then 2 else if vlen (x + 3) = 3 then 3
  else if vlen (x + 4) = 4 then 4 else 5

/-- R140: the padding loop from `P`; `fuel` bounds its rounds (R140: P <= 6, log 19). -/
def padFrom (S K : Nat) : Nat → Nat → Nat
  | 0, P => P
  | fuel + 1, P => if (S + K + P + trailerLen (K + P)) % 4 = 0 then P else padFrom S K fuel (P + 1)

/-- R140: the padding length of a payload of `S` bytes and `K` selectors. -/
def padLen (S K : Nat) : Nat := padFrom S K 16 0

/-- R141: the backward scan after reading byte `b` at index `i`, with at most `left` more bytes. -/
def vbyteScan (s : State) (base : Nat) : Nat → Nat → Nat → Nat → Nat → Res (Nat × Nat)
  | left, i, acc, t, b =>
    if b &&& 0x80 ≠ 0 then .ok (acc, t)
    else
      match left with
      | 0 => .error (.raise s .badTrailer 2)
      | left + 1 =>
        if i = 0 then .error (.raise s .badTrailer 1)
        else
          match memRead s (base + (i - 1)) 1 with
          | .error e => .error e
          | .ok b' => vbyteScan s base left (i - 1) ((acc <<< 7) ||| (b' &&& 0x7F)) (t + 1) b'

/-- R141: the backward decoder of the `len` bytes at `base`: the value and the length. -/
def vbyteDec (s : State) (base len : Nat) : Res (Nat × Nat) :=
  if len = 0 then .error (.raise s .badTrailer 1)
  else
    match memRead s (base + (len - 1)) 1 with
    | .error e => .error e
    | .ok b =>
      match vbyteScan s base 4 (len - 1) (b &&& 0x7F) 1 b with
      | .error e => .error e
      | .ok (v, t) => if 2 ^ 32 ≤ v then .error (.raise s .badTrailer 3) else .ok (v, t)

/-- A list of bytes as a little-endian number. -/
def bytesLE : List Byte → Nat
  | [] => 0
  | b :: bs => b.toNat + 256 * bytesLE bs

/-- CMD VBYTE_ENC (R152). -/
def execCmdVbyteEnc (s : State) : Host.Outcome State Fault Refusal :=
  let bytes := vbyteEnc s.ar.toNat
  .next (complete s (bytesLE (bytes.take 4)) (bytesLE (bytes.drop 4) ||| (bytes.length <<< 8)))

/-- The work of VBYTE_DEC (R153). -/
def runVbyteDec (s : State) : Res State :=
  match vbyteDecChecks s with
  | some (e, info) => .error (.raise s e info)
  | none =>
    match vbyteDec s s.sa.toNat s.sl.toNat with
    | .error e => .error e
    | .ok (v, t) => .ok (complete s v t)

/-- CMD VBYTE_DEC (R153). -/
def execCmdVbyteDec (s : State) : Host.Outcome State Fault Refusal := finish noDest (runVbyteDec s)

end Sys2Proof.Machine
end

