-- ==== Sys2Proof/Machine/Encode.lean ====
section
/-! DEFINITION. ENCODE (R149): the compressed buffer of a source array (R73) and the command. -/

namespace Sys2Proof.Machine

/-- What the encoder's stages produce: the width scratch and the promoter's final position, the runs, the payload, the
selectors, the padding length and the trailer's value. -/
structure Encoded where
  widths : List Nat
  pos : Nat
  runs : List Run
  payload : List Byte
  sels : List Byte
  pad : Nat
  trlVal : Nat
deriving DecidableEq, Repr

/-- R73: the compressed buffer. -/
def Encoded.bytes (r : Encoded) : List Byte :=
  r.payload ++ r.sels ++ List.replicate r.pad Config.padByte ++ vbyteEnc r.trlVal

/-- The stages of ENCODE on a source array (R149): classifier, promoter, pack engine, padding and trailer. An error is
INTERNAL with its position (R88). -/
def encodeBuffer (scope : PromoteScope) (se : Bool) (src : List Word) : Except Nat Encoded :=
  match promote scope se src.length (initWidths src) with
  | .error p => .error p
  | .ok (pos, ws) =>
    match toWidths 0 (ws.take src.length) with
    | .error p => .error p
    | .ok widths =>
      let runs := runsFrom 0 widths
      let payload := runs.flatMap (runPayload src)
      let sels := runs.flatMap runSelectors
      let pad := padLen payload.length sels.length
      .ok { widths := ws, pos := pos, runs := runs, payload := payload, sels := sels, pad := pad
            trlVal := sels.length + pad + trailerLen (sels.length + pad) }

/-- The scratch and the cursors after the encoder's stages (R35 to R37): the last run, the block start past its last
block, and the payload length. -/
def withEncodeScratch (s : State) (r : Encoded) : State :=
  let last := r.runs.getLast?
  { s with
    widths := r.widths
    selbuf := r.sels
    p := r.pos
    rs := (last.map Run.start).getD 0
    rl := (last.map Run.len).getD 0
    b := (last.map (fun x => x.start + x.blocks * x.width.blockInts)).getD 0
    ob := r.payload.length }

/-- R149: everything ENCODE does before its first MemWrite. -/
def planEncode (s : State) : Res Encoded :=
  match encodeChecks s with
  | some (e, info) => .error (.raise s e info)
  | none =>
    match readWords s s.sa.toNat s.sl.toNat with
    | .error e => .error e
    | .ok src =>
      match encodeBuffer s.params.promoteScope s.se src with
      | .error p => .error (.raise s .internal p)
      | .ok r =>
        if s.dl.toNat < r.bytes.length then .error (.raise (withEncodeScratch s r) .capacity r.bytes.length) else .ok r

/-- The work of ENCODE (R149). -/
def runEncode (s : State) : Res State :=
  match planEncode s with
  | .error e => .error e
  | .ok r =>
    match writeAll 1 (withEncodeScratch s r) s.da.toNat (r.bytes.map BitVec.toNat) with
    | .error e => .error e
    | .ok s' => .ok (complete s' (r.bytes.length / 4) r.payload.length)

/-- CMD ENCODE (R149). -/
def execCmdEncode (s : State) : Host.Outcome State Fault Refusal := finish encodeDest (runEncode s)

end Sys2Proof.Machine
end

