-- ==== Sys2Proof/Machine/Unpack.lean ====
section
/-! DEFINITION. DECODE (R150) and the unpack engine (R115 to R137): the fifteen selector instructions. -/

namespace Sys2Proof.Machine

/-- R70: the column word, or the two words, of column `l` of the block at address `base`. -/
def readColumn (s : State) (base units l : Nat) : Res Nat :=
  match memRead s (base + 4 * l) 4 with
  | .error e => .error e
  | .ok lo =>
    if units = 2 then
      match memRead s (base + 16 + 4 * l) 4 with
      | .error e => .error e
      | .ok hi => .ok (lo ||| (hi <<< 32))
    else .ok lo

/-- The column values of columns `l, l+1, …`, so many of them. -/
def readColumns (s : State) (base units : Nat) : Nat → Nat → Res (List Nat)
  | _, 0 => .ok []
  | l, k + 1 =>
    match readColumn s base units l with
    | .error e => .error e
    | .ok x =>
      match readColumns s base units (l + 1) k with
      | .error e => .error e
      | .ok xs => .ok (x :: xs)

/-- R70: value `j` of a packed block, from its column values. -/
def packedField (w : Width) (cols : List Nat) (j : Nat) : Nat :=
  ((cols.getD (j % 4) 0) >>> (w.bits * (j / 4))) &&& w.mask

/-- R71: read and write values `j, j+1, …` of a direct block, so many of them. -/
def copyDirect (bytes : Nat) : Nat → Nat → State → Res State
  | _, 0, s => .ok s
  | j, k + 1, s =>
    match memRead s (s.sa.toNat + s.pp + bytes * j) bytes with
    | .error e => .error e
    | .ok x =>
      match memWrite s (s.da.toNat + 4 * (s.oc + j)) 4 x with
      | .error e => .error e
      | .ok s' => copyDirect bytes (j + 1) k s'

/-- R123 to R137: unpack_block_w(r). -/
def unpackBlock (w : Width) (r : Nat) (s : State) : Res State :=
  match w.kind with
  | .zero => writeAll 4 s (s.da.toNat + 4 * s.oc) (List.replicate r 1)
  | .packed units =>
    if s.selStart < s.pp + w.blockBytes then .error (.raise s .payloadOverrun s.pp)
    else
      match readColumns s (s.sa.toNat + s.pp) units 0 4 with
      | .error e => .error e
      | .ok cols =>
        match writeAll 4 s (s.da.toNat + 4 * s.oc) ((List.range r).map (packedField w cols)) with
        | .error e => .error e
        | .ok s' => .ok { s' with pp := s.pp + w.blockBytes }
  | .direct bytes =>
    if s.selStart < s.pp + bytes * r then .error (.raise s .payloadOverrun s.pp)
    else
      match copyDirect bytes 0 r s with
      | .error e => .error e
      | .ok s' => .ok { s' with pp := s.pp + bytes * r }

/-- R115: the blocks of one selector, until the output count is reached. -/
def unpackBlocks (w : Width) : Nat → State → Res State
  | 0, s => .ok s
  | c + 1, s =>
    if s.dl.toNat ≤ s.oc then .ok s
    else
      match unpackBlock w (min w.blockInts (s.dl.toNat - s.oc)) s with
      | .error e => .error e
      | .ok s' => unpackBlocks w c { s' with oc := s.oc + min w.blockInts (s.dl.toNat - s.oc) }

/-- R115, R146: DECODE ends when the output count is reached, and else goes on. -/
def endIfDone (s : State) : State := if s.dl.toNat ≤ s.oc then complete s s.pp s.selStart else s

/-- R115: one selector: its blocks, then `sc <- sc + 1`. -/
def runSelector (w : Width) (count : Nat) (s : State) : Res State :=
  match unpackBlocks w count s with
  | .error e => .error e
  | .ok s' => .ok (endIfDone { s' with sc := s'.sc + 1 })

/-- A selector's outcome: an error is DECODE's, over DECODE's destination range (R155). -/
def execSelector (w : Width) (count : Nat) (s : State) : Host.Outcome State Fault Refusal :=
  finish decodeDest (runSelector w count s)

/-- SEL w0 (R123). -/
def execSelW0 (count : Nat) (s : State) : Host.Outcome State Fault Refusal := execSelector .w0 count s

/-- SEL w1 (R124). -/
def execSelW1 (count : Nat) (s : State) : Host.Outcome State Fault Refusal := execSelector .w1 count s

/-- SEL w2 (R125). -/
def execSelW2 (count : Nat) (s : State) : Host.Outcome State Fault Refusal := execSelector .w2 count s

/-- SEL w3 (R126). -/
def execSelW3 (count : Nat) (s : State) : Host.Outcome State Fault Refusal := execSelector .w3 count s

/-- SEL w4 (R127). -/
def execSelW4 (count : Nat) (s : State) : Host.Outcome State Fault Refusal := execSelector .w4 count s

/-- SEL w5 (R128). -/
def execSelW5 (count : Nat) (s : State) : Host.Outcome State Fault Refusal := execSelector .w5 count s

/-- SEL w6 (R129). -/
def execSelW6 (count : Nat) (s : State) : Host.Outcome State Fault Refusal := execSelector .w6 count s

/-- SEL w7 (R130). -/
def execSelW7 (count : Nat) (s : State) : Host.Outcome State Fault Refusal := execSelector .w7 count s

/-- SEL w8 (R131). -/
def execSelW8 (count : Nat) (s : State) : Host.Outcome State Fault Refusal := execSelector .w8 count s

/-- SEL w9 (R132). -/
def execSelW9 (count : Nat) (s : State) : Host.Outcome State Fault Refusal := execSelector .w9 count s

/-- SEL w10 (R133). -/
def execSelW10 (count : Nat) (s : State) : Host.Outcome State Fault Refusal := execSelector .w10 count s

/-- SEL w12 (R134). -/
def execSelW12 (count : Nat) (s : State) : Host.Outcome State Fault Refusal := execSelector .w12 count s

/-- SEL w16 (R135). -/
def execSelW16 (count : Nat) (s : State) : Host.Outcome State Fault Refusal := execSelector .w16 count s

/-- SEL w21 (R136). -/
def execSelW21 (count : Nat) (s : State) : Host.Outcome State Fault Refusal := execSelector .w21 count s

/-- SEL w32 (R137). -/
def execSelW32 (count : Nat) (s : State) : Host.Outcome State Fault Refusal := execSelector .w32 count s

/-- R115, R40: the decoder context at the start of the selector loop. -/
def enterUnpack (s : State) (v t : Nat) : State :=
  { s with
    phase := .unpack
    bufLen := 4 * s.sl.toNat
    trlLen := t
    trlVal := v
    selStart := 4 * s.sl.toNat - v
    sc := 4 * s.sl.toNat - v
    pp := 0
    oc := 0 }

/-- The work of DECODE up to the selector loop (R150, R142, R143); with an output count of 0 it ends here. -/
def runDecode (s : State) : Res State :=
  match decodeChecks s with
  | some (e, info) => .error (.raise s e info)
  | none =>
    match vbyteDec s s.sa.toNat (4 * s.sl.toNat) with
    | .error e => .error e
    | .ok (v, t) =>
      if v < t then .error (.raise s .badTrailer 4)
      else if 4 * s.sl.toNat < v then .error (.raise s .badTrailer 5)
      else .ok (endIfDone (enterUnpack s v t))

/-- CMD DECODE (R150). -/
def execCmdDecode (s : State) : Host.Outcome State Fault Refusal := finish decodeDest (runDecode s)

end Sys2Proof.Machine
end

