-- ==== Sys2Proof/Machine/Dispatch.lean ====
section
/-! DEFINITION. The meaning of every instruction, one arm per constructor. -/

namespace Sys2Proof.Machine

def exec (i : Instr) (s : State) : Host.Outcome State Fault Refusal :=
  match i with
  | .cmdEncode => Sys2Proof.Machine.execCmdEncode s
  | .cmdDecode => Sys2Proof.Machine.execCmdDecode s
  | .cmdClassify => Sys2Proof.Machine.execCmdClassify s
  | .cmdVbyteEnc => Sys2Proof.Machine.execCmdVbyteEnc s
  | .cmdVbyteDec => Sys2Proof.Machine.execCmdVbyteDec s
  | .selW0 count => Sys2Proof.Machine.execSelW0 count s
  | .selW1 count => Sys2Proof.Machine.execSelW1 count s
  | .selW2 count => Sys2Proof.Machine.execSelW2 count s
  | .selW3 count => Sys2Proof.Machine.execSelW3 count s
  | .selW4 count => Sys2Proof.Machine.execSelW4 count s
  | .selW5 count => Sys2Proof.Machine.execSelW5 count s
  | .selW6 count => Sys2Proof.Machine.execSelW6 count s
  | .selW7 count => Sys2Proof.Machine.execSelW7 count s
  | .selW8 count => Sys2Proof.Machine.execSelW8 count s
  | .selW9 count => Sys2Proof.Machine.execSelW9 count s
  | .selW10 count => Sys2Proof.Machine.execSelW10 count s
  | .selW12 count => Sys2Proof.Machine.execSelW12 count s
  | .selW16 count => Sys2Proof.Machine.execSelW16 count s
  | .selW21 count => Sys2Proof.Machine.execSelW21 count s
  | .selW32 count => Sys2Proof.Machine.execSelW32 count s

end Sys2Proof.Machine
end

