-- ==== Sys2Proof/Machine/Registers.lean ====
section
/-! DEFINITION. The register block as the host sees it (R20 to R30, R45), reset (R169, R171), host accesses to memory
with the duties of R173, and the host's turn. -/

namespace Sys2Proof.Machine

/-- R21: the registers that exist. -/
inductive Reg where
  | id | ctrl | status | cmd | srcAddr | srcLen | dstAddr | dstLen | arg | result0 | result1 | errinfo
deriving DecidableEq, Repr

/-- R21: the offset of each register. -/
def Reg.offset : Reg → Nat
  | .id => 0x00
  | .ctrl => 0x04
  | .status => 0x08
  | .cmd => 0x0C
  | .srcAddr => 0x10
  | .srcLen => 0x14
  | .dstAddr => 0x18
  | .dstLen => 0x1C
  | .arg => 0x20
  | .result0 => 0x24
  | .result1 => 0x28
  | .errinfo => 0x2C

/-- R21: every register. -/
def allRegs : List Reg :=
  [.id, .ctrl, .status, .cmd, .srcAddr, .srcLen, .dstAddr, .dstLen, .arg, .result0, .result1, .errinfo]

/-- The register at an offset; none at a reserved one (R29). -/
def Reg.ofOffset? (off : Nat) : Option Reg := allRegs.find? (fun r => r.offset == off)

/-- R22: what ID reads as. -/
def idWord : Word := 0x514D5801

/-- R21 to R28: what a register reads as. -/
def readReg (s : State) : Reg → Word
  | .id => idWord
  | .ctrl => s.ctrlWord
  | .status => s.statusWord
  | .cmd => s.cmd
  | .srcAddr => s.srcAddr
  | .srcLen => s.srcLen
  | .dstAddr => s.dstAddr
  | .dstLen => s.dstLen
  | .arg => s.arg
  | .result0 => s.result0
  | .result1 => s.result1
  | .errinfo => s.errinfo

/-- R29: a register read; a reserved offset reads 0. -/
def readOffset (s : State) (off : Nat) : Word :=
  match Reg.ofOffset? off with
  | some r => readReg s r
  | none => 0

/-- R171, R178: an ENCODE that has not taken its step could already be writing: it passes every check that comes before
its first write, and that write gets no bus error. -/
def encodeCouldWrite (s : State) : Bool :=
  match planEncode s with
  | .error _ => false
  | .ok _ => !busErrAt s.params s.da.toNat

/-- R171: the running command has begun to write its destination. For an ENCODE still before its step the progress is
open, and a free value tells it (log 12). -/
def abortedAfterWrite (s : State) : Bool :=
  s.wrote || (decide (s.phase = .started) && decide (s.op = 1) && encodeCouldWrite s && Config.freeBit s.freeCtr)

/-- R171: memory after a running command is aborted. -/
def abortedMemory (s : State) : Memory :=
  if s.busy && abortedAfterWrite s then Memory.scrambleRange s.mem s.freeCtr (runningDest s) else s.mem

/-- R169: the reset input. It changes no byte of host memory, and a running command goes no further; what that command
had written before stands (log 13). -/
def hardwareReset (s : State) : State := resetTo s s.mem

/-- R171: a soft reset, with the abort of a running command. -/
def softReset (s : State) : State := resetTo s (abortedMemory s)

/-- R25: a write to CMD starts a command, or is lost while one runs. -/
def writeCmd (s : State) (v : Word) : State :=
  if s.busy then { s with cmdLost := true } else startCommand s v

/-- R23, R171: a write to CTRL. -/
def writeCtrl (s : State) (v : Word) : State := if v.getLsbD 31 then softReset s else setCtrl s v

/-- R21 to R29: the effect of a register write; read-only registers ignore it. -/
def writeReg (s : State) (r : Reg) (v : Word) : State :=
  match r with
  | .id => s
  | .ctrl => writeCtrl s v
  | .status => acknowledge s v
  | .cmd => writeCmd s v
  | .srcAddr => { s with srcAddr := v }
  | .srcLen => { s with srcLen := v }
  | .dstAddr => { s with dstAddr := v }
  | .dstLen => { s with dstLen := v }
  | .arg => { s with arg := v }
  | .result0 => s
  | .result1 => s
  | .errinfo => s

/-- R29: a register write; a reserved offset ignores it. -/
def writeOffset (s : State) (off : Nat) (v : Word) : State :=
  match Reg.ofOffset? off with
  | some r => writeReg s r v
  | none => s

/-- R20, R45: the offset of a 32-bit access at a multiple of 4 inside the 64 words of the block; none for any other. -/
def registerOffset? (p : Params) (w : AccessWidth) (addr : Word) : Option Nat :=
  if w = .bits32 ∧ p.regBase.toNat ≤ addr.toNat ∧ addr.toNat - p.regBase.toNat < 256
      ∧ (addr.toNat - p.regBase.toNat) % 4 = 0 then
    some (addr.toNat - p.regBase.toNat)
  else none

/-- R173: the host's duties over the last command's ranges hold, from its CMD write until the host observes BUSY = 0. -/
def State.guarded (s : State) : Bool := s.busy || s.unseen

/-- R173, R58: what the host has just read; an observation that BUSY is 0 ends its duties (log 33). -/
def observe (s : State) (sawIdle : Bool) : State := { s with unseen := s.unseen && !sawIdle }

/-- R173: memory after a breach: both ranges of the last command are unspecified (free values, log 14). -/
def breachedMemory (s : State) : Memory :=
  Memory.scrambleRange (Memory.scrambleRange s.mem s.freeCtr (runningSource s)) s.freeCtr (runningDest s)

/-- R173: from a breach of the host's duties while the command runs, the outcome and both ranges are unspecified (log 14). -/
def breach (s : State) : State :=
  { s with
    phase := .breached
    wrote := true
    mem := breachedMemory s
    freeCtr := s.freeCtr + 1 }

/-- R173: a breach after the command has completed and before the host has observed it: the command's results, how it ended
among them, and both ranges are unspecified (free values, log 14). DONE and ERR are never both 1 (R24), and ERRCODE is a
code of R154 exactly while ERR is 1. -/
def lateBreach (s : State) : State :=
  let done := Config.freeBit s.freeCtr
  let err := !done && Config.freeBit (s.freeCtr + 1)
  { s with
    mem := breachedMemory s
    freeCtr := s.freeCtr + 2
    done := done
    err := err
    errcode := if err then BitVec.ofNat 8 (1 + (Config.freeWord s.freeCtr 2).toNat % 12) else 0
    errinfo := if done then 0 else Config.freeWord s.freeCtr 3
    result0 := Config.freeWord s.freeCtr 0
    result1 := Config.freeWord s.freeCtr 1 }

/-- R173: a breach of the host's duties, while the command runs or after it. -/
def hostBreach (s : State) : State := if s.busy then breach s else lateBreach s

/-- R173: a command whose ranges the host touched completes in a finite time (R178), with an outcome and ranges that are
free values. It keeps what the registers never break: DONE or ERR but not both (R24), a code of R154, and results that
change on success only (R27). -/
def finishBreached (s : State) : State :=
  let mem := breachedMemory s
  if Config.freeBit s.freeCtr then
    { s with
      mem := mem
      freeCtr := s.freeCtr + 1
      phase := .idle
      done := true
      result0 := Config.freeWord s.freeCtr 0
      result1 := Config.freeWord s.freeCtr 1 }
  else
    { s with
      mem := mem
      freeCtr := s.freeCtr + 1
      phase := .idle
      err := true
      errcode := BitVec.ofNat 8 (1 + (Config.freeWord s.freeCtr 2).toNat % 12)
      errinfo := Config.freeWord s.freeCtr 3 }

/-- A host write of a byte of memory; into a range of the last command, before the host has observed BUSY = 0, it is a
breach of R173. An address inside the register block is a byte of host memory too (log 31). -/
def hostMemWrite (s : State) (a : Nat) (v : Byte) : Host.Outcome State Fault Refusal :=
  if busErrAt s.params a then .refused .hostMemoryError
  else if s.guarded ∧ ((runningSource s).mem a ∨ (runningDest s).mem a) then
    .next (hostBreach { s with mem := Memory.write s.mem a v })
  else .next { s with mem := Memory.write s.mem a v }

/-- A host read of a byte of memory; from the destination range of the last command, before the host has observed BUSY = 0,
it is a breach of R173. An address inside the register block is a byte of host memory too (log 31). -/
def hostMemRead (s : State) (a : Nat) : Host.Outcome State Fault Refusal :=
  if busErrAt s.params a then .refused .hostMemoryError
  else if s.guarded ∧ (runningDest s).mem a then
    .next { hostBreach s with rdata := (Memory.read (hostBreach s).mem a).setWidth 32 }
  else .next { s with rdata := (Memory.read s.mem a).setWidth 32 }

/-- A host write to the register block (R45). -/
def hostRegWrite (s : State) (w : AccessWidth) (addr v : Word) : Host.Outcome State Fault Refusal :=
  match registerOffset? s.params w addr with
  | none => .refused .unsupportedRegisterAccess
  | some off => .next (writeOffset s off v)

/-- A host read of the register block (R45): no side effect on the block. A read of STATUS while BUSY is 0 is how the host
observes BUSY = 0 (R173). -/
def hostRegRead (s : State) (w : AccessWidth) (addr : Word) : Host.Outcome State Fault Refusal :=
  match registerOffset? s.params w addr with
  | none => .refused .unsupportedRegisterAccess
  | some off =>
    .next { observe s (decide (off = Reg.offset .status) && !s.busy) with rdata := readOffset s off }

/-- The host samples the IRQ output; where it is 1, the host observes the completion (R58). -/
def hostIrqRead (s : State) : Host.Outcome State Fault Refusal :=
  .next { observe s (s.irq && !s.busy) with rdata := if s.irq then 1 else 0 }

end Sys2Proof.Machine
end

