-- ==== Sys2Proof/Machine/Fetch.lean ====
section
/-! DEFINITION. Whose turn it is, and the fetch of the engine's next instruction: the latched command word (R145, R147)
or the selector byte at `sc` (R115, R117, R118). -/

namespace Sys2Proof.Machine

/-- What a step does: run an instruction at a state, or answer at once. -/
inductive Turn where
  | run (i : Instr) (s : State)
  | answer (o : Host.Outcome State Fault Refusal)

/-- R147: the command the latched word names; any other word raises ILLEGAL_CMD with the word. -/
def fetchCommand (s : State) : Turn :=
  match decodeCommand s.op with
  | .ok i => .run i s
  | .error _ => .answer (.next (raiseError s Range.none .illegalCmd s.op.toNat))

/-- R115, R117, R118: the head of the dispatch loop: the output count, the selector bound, the fetch and the reserved
type. -/
def fetchSelector (s : State) : Turn :=
  if s.dl.toNat ≤ s.oc then .answer (.next (complete s s.pp s.selStart))
  else if s.bufLen - s.trlLen ≤ s.sc then
    .answer (.next (raiseError s (decodeDest s) .selectorOverrun s.sc))
  else
    match memRead s (s.sa.toNat + s.sc) 1 with
    | .error e => .answer (finish decodeDest (.error e))
    | .ok sel =>
      match decodeSelector (BitVec.ofNat 8 sel) with
      | .ok i => .run i s
      | .error _ => .answer (.next (raiseError s (decodeDest s) .badSelector s.sc))

/-- The engine's turn: an idle engine waits and keeps every register (R168, R170). -/
def engineTurn (s : State) : Turn :=
  match s.phase with
  | .idle => .answer (.next s)
  | .started => fetchCommand s
  | .unpack => fetchSelector s
  | .breached => .answer (.next (finishBreached s))

/-- The next turn: the host's next action if one is pending, else the engine's (log 1). The end of WAIT is a read of STATUS
with BUSY = 0 (R76). -/
def nextTurn (s : State) : Turn :=
  match s.host with
  | [] => engineTurn s
  | .engineTurn :: rest => engineTurn { s with host := rest }
  | .wait :: rest => if s.busy then engineTurn s else .answer (.next (observe { s with host := rest } true))
  | .hwReset :: rest => .answer (.next (hardwareReset { s with host := rest }))
  | .regWrite w addr v :: rest => .answer (hostRegWrite { s with host := rest } w addr v)
  | .regRead w addr :: rest => .answer (hostRegRead { s with host := rest } w addr)
  | .memWrite addr v :: rest => .answer (hostMemWrite { s with host := rest } addr.toNat v)
  | .memRead addr :: rest => .answer (hostMemRead { s with host := rest } addr.toNat)
  | .irqRead :: rest => .answer (hostIrqRead { s with host := rest })

/-- DECODE is in its selector loop and the next fetch is possible (R115, R117). -/
def selectorFetchReady (s : State) : Bool :=
  decide (s.phase = .unpack) && decide (s.oc < s.dl.toNat) && decide (s.sc < s.bufLen - s.trlLen)
    && decide (s.sa.toNat + s.sc < 2 ^ 32) && !busErrAt s.params (s.sa.toNat + s.sc)

/-- A running DECODE about to fetch its first selector: a 520-byte buffer at 0 whose payload is 516 bytes, 16 outputs at
1024 (log 3). -/
def withRunningDecode (s : State) : State :=
  { s with
    op := 2
    sa := 0
    sl := 130
    da := 1024
    dl := 16
    phase := .unpack
    wrote := false
    bufLen := 520
    trlLen := 1
    trlVal := 4
    selStart := 516
    sc := 516
    pp := 0
    oc := 0
    params := if busErrAt s.params 516 then { s.params with busErr := [] } else s.params }

/-- The selector byte placed where the next fetch reads it. -/
def withSelectorByte (s : State) (sel : Byte) : State :=
  { s with mem := Memory.write s.mem (s.sa.toNat + s.sc) sel }

end Sys2Proof.Machine
end

