-- ==== Sys2Proof/Machine/Step.lean ====
section
/-! DEFINITION. One step of the machine, and the placing of an instruction where the next step fetches it. -/

namespace Sys2Proof.Machine

/-- One step: the turn's instruction runs, or the turn's answer stands. -/
def step (s : State) : Host.Outcome State Fault Refusal :=
  match nextTurn s with
  | .run i s' => exec i s'
  | .answer o => o

/-- The instruction of a row of spec/opcode_table.json placed so that the very next step runs it (log 3): a command word
is the latched word of a command about to begin, a selector byte is the byte at `sc` of a running DECODE. No host action
stands before it. -/
def State.withFetchWord (s : State) (nbits w : Nat) : State :=
  if nbits = 8 then
    withSelectorByte (if selectorFetchReady s then { s with host := [] } else withRunningDecode { s with host := [] })
      (BitVec.ofNat 8 w)
  else { s with host := [], phase := .started, op := BitVec.ofNat 32 w, wrote := false }

end Sys2Proof.Machine
end

