-- ==== Sys2Proof/Machine/Listing.lean ====
section
/-! DEFINITION. The assembler of R76: a buffer listing's bytes, and the lines of a host program as host actions. -/

namespace Sys2Proof.Machine

/-- R76: RUN expands to selectors of count 16, then one of the remainder. -/
def expandRun (w : Width) (blocks : Nat) : List Instr :=
  List.replicate (blocks / 16) (Instr.sel w 16) ++ (if blocks % 16 = 0 then [] else [Instr.sel w (blocks % 16)])

/-- R76: the bytes of a listing line. -/
def lineBytes : Line → List Byte
  | .payload bytes => bytes
  | .sel w count => encode (Instr.sel w count)
  | .run w blocks => (expandRun w blocks).flatMap encode
  | .pad p => List.replicate p 0x00
  | .trailer v => vbyteEnc v

/-- R76: a buffer listing, refused at its first ill-formed line. -/
def assemble : List Line → Except IllFormed (List Byte)
  | [] => .ok []
  | l :: ls =>
    match l.check with
    | .error e => .error e
    | .ok _ =>
      match assemble ls with
      | .error e => .error e
      | .ok bytes => .ok (lineBytes l ++ bytes)

/-- R76: `WR <REG>, <value>` for a block at `base`. -/
def hostWR (base : Word) (r : Reg) (v : Word) : HostAction := .regWrite .bits32 (base + BitVec.ofNat 32 r.offset) v

/-- R76: `RD <REG>` for a block at `base`. -/
def hostRD (base : Word) (r : Reg) : HostAction := .regRead .bits32 (base + BitVec.ofNat 32 r.offset)

/-- R76: `CMD <name>` is `WR CMD, <opcode>`. -/
def hostCMD (base : Word) (opcode : Word) : HostAction := hostWR base .cmd opcode

end Sys2Proof.Machine
end

