-- ==== Sys2Proof/Safety.lean ====
section
/-! DEFINITION. The terms the claims are stated in: the invariant of the machine, whose turn it is, what a command reads
and writes, and what the host can observe. -/

namespace Sys2Proof.Machine

/-! ## The invariant -/

/-- What holds while DECODE is in its selector loop: the static checks passed (R150), the trailer was good (R141, R142),
the cursors are inside their bounds (R38, R39), and output is still to be written (R115). -/
structure DecodeContext (s : State) : Prop where
  op : s.op = 2
  checks : decodeChecks s = none
  bufLen : s.bufLen = 4 * s.sl.toNat
  trlLen_pos : 1 ≤ s.trlLen
  trlLen_le : s.trlLen ≤ 5
  trlLen_le_val : s.trlLen ≤ s.trlVal
  trlVal_le : s.trlVal ≤ s.bufLen
  selStart : s.selStart = s.bufLen - s.trlVal
  sc_ge : s.selStart ≤ s.sc
  sc_le : s.sc ≤ s.bufLen - s.trlLen
  pp_le : s.pp ≤ s.selStart
  oc_lt : s.oc < s.dl.toNat

/-- The invariant of the machine: memory in its canonical form, MAX_N within R7, the flags as R24 has them, ERRINFO 0
while a command runs (R175), an error code of R154 exactly while ERR is set, CMD the word of the running command (R25), no
write before a command's first step, and the decoder's context. -/
structure Inv (s : State) : Prop where
  mem : Memory.wf s.mem = true
  params : s.params.wf
  doneErr : ¬ (s.done = true ∧ s.err = true)
  busyFlags : s.busy = true → s.done = false ∧ s.err = false
  busyErrinfo : s.busy = true → s.errinfo = 0
  errcodeClear : s.err = false → s.errcode = 0
  errcodeKnown : s.err = true → 1 ≤ s.errcode.toNat ∧ s.errcode.toNat ≤ 12
  opIsCmd : s.busy = true → s.op = s.cmd
  startedClean : s.phase = .started → s.wrote = false
  decode : s.phase = .unpack → DecodeContext s

/-! ## Turns and outcomes -/

/-- The next step is the engine's: no host action is pending, the host lets it move, or the host waits for a running
command. -/
def EngineMoves (s : State) : Prop :=
  s.host = [] ∨ (∃ rest, s.host = .engineTurn :: rest) ∨ (s.busy = true ∧ ∃ rest, s.host = .wait :: rest)

/-- The state a step's own work starts from: the host action that gave the engine its turn is used up. -/
def afterTurn (s : State) : State :=
  match s.host with
  | .engineTurn :: rest => { s with host := rest }
  | _ => s

/-- Apply a function to the next state of an outcome. -/
def mapNext (f : State → State) : Host.Outcome State Fault Refusal → Host.Outcome State Fault Refusal
  | .next s => .next (f s)
  | .fault r => .fault r
  | .refused r => .refused r

/-- R155: the error completion of a command that has performed no MemWrite: memory is unchanged. -/
def failedUnwritten (s : State) (e : ErrCode) (info : Nat) : State :=
  { s with
    freeCtr := s.freeCtr + 1
    errinfo := BitVec.ofNat 32 info
    errcode := e.code
    phase := .idle
    err := true }

/-! ## Memory -/

/-- No address of the range answers with a bus error (R156). -/
def NoBusErr (p : Params) (r : Range) : Prop := ∀ a, r.mem a → busErrAt p a = false

/-- The 32-bit word at an address. -/
def wordAt (m : Memory) (a : Nat) : Nat := Memory.readLE m a 4

/-- R50, R53: the source array of an ENCODE. -/
def sourceWords (s : State) : List Word :=
  (List.range s.sl.toNat).map (fun i => BitVec.ofNat 32 (wordAt s.mem (s.sa.toNat + 4 * i)))

/-- The bytes `bytes` stand at the addresses from `a` up. -/
def BytesAt (m : Memory) (a : Nat) (bytes : List Byte) : Prop :=
  ∀ i, i < bytes.length → Memory.read m (a + i) = bytes.getD i 0

/-! ## The trailer -/

/-- R74, R141: the seven-bit groups of the `t` bytes at `a`, the lowest-addressed least significant. -/
def groupsValue (m : Memory) : Nat → Nat → Nat
  | _, 0 => 0
  | a, t + 1 => (Memory.read m a).toNat % 128 + 128 * groupsValue m (a + 1) t

/-- R141: the `len` bytes at `base` end in a trailer of `t` bytes: its first byte carries the terminator bit and no later
one does. -/
structure TrailerAt (m : Memory) (base len t : Nat) : Prop where
  pos : 1 ≤ t
  le_five : t ≤ 5
  le_len : t ≤ len
  terminator : 128 ≤ (Memory.read m (base + (len - t))).toNat
  others : ∀ i, 0 < i → i < t → (Memory.read m (base + (len - t) + i)).toNat < 128

/-- The value of the trailer of `t` bytes that ends the `len` bytes at `base`. -/
def trailerValue (m : Memory) (base len t : Nat) : Nat := groupsValue m (base + (len - t)) t

/-! ## Blocks and selectors -/

/-- R70, R71, R72: value `j` of the block of width `w` whose bytes start at `base`. -/
def blockValue (m : Memory) (w : Width) (base j : Nat) : Nat :=
  match w.kind with
  | .zero => 1
  | .packed units =>
    ((Memory.readLE m (base + 4 * (j % 4)) 4
        + (if units = 2 then Memory.readLE m (base + 16 + 4 * (j % 4)) 4 * 2 ^ 32 else 0)) / 2 ^ (w.bits * (j / 4)))
      % 2 ^ w.bits
  | .direct bytes => Memory.readLE m (base + bytes * j) bytes

/-- R115, R116: the number of values a selector of `count` blocks writes. -/
def selectorOutputs (w : Width) (count : Nat) (s : State) : Nat := min (count * w.blockInts) (s.dl.toNat - s.oc)

/-- R119: the payload bytes a selector consumes: whole blocks of a packed width, the returned values of a direct one. -/
def selectorBytes (w : Width) (count : Nat) (s : State) : Nat :=
  match w.kind with
  | .zero => 0
  | .packed units => (selectorOutputs w count s + w.blockInts - 1) / w.blockInts * (16 * units)
  | .direct bytes => bytes * selectorOutputs w count s

/-- R115: output `i` of a selector, from the payload at `pp`. -/
def selectorValue (w : Width) (s : State) (i : Nat) : Nat :=
  blockValue s.mem w (s.sa.toNat + s.pp + i / w.blockInts * w.blockBytes) (i % w.blockInts)

/-- R119, R156, R50, R52: a selector can run to its end: its payload lies below the selector start, the bytes it reads
and writes exist, answer, and are apart; memory is in its canonical form. -/
structure SelectorRunnable (w : Width) (count : Nat) (s : State) : Prop where
  memWf : Memory.wf s.mem = true
  payload : s.pp + selectorBytes w count s ≤ s.selStart
  readsExist : s.sa.toNat + s.pp + selectorBytes w count s ≤ 2 ^ 32
  writesExist : s.da.toNat + 4 * (s.oc + selectorOutputs w count s) ≤ 2 ^ 32
  readsAnswer : NoBusErr s.params ⟨s.sa.toNat + s.pp, s.sa.toNat + s.pp + selectorBytes w count s⟩
  writesAnswer : NoBusErr s.params ⟨s.da.toNat + 4 * s.oc, s.da.toNat + 4 * (s.oc + selectorOutputs w count s)⟩
  apart : s.sa.toNat + s.pp + selectorBytes w count s ≤ s.da.toNat + 4 * s.oc
    ∨ s.da.toNat + 4 * (s.oc + selectorOutputs w count s) ≤ s.sa.toNat + s.pp

/-- R115, R116, R146: what a selector that runs to its end leaves: its outputs at the output cursor, every other byte of
memory as it was, the cursors moved, DECODE completed with `pp` and S if the output count is reached and running on if
not, and nothing else changed. -/
structure SelectorDone (w : Width) (count : Nat) (s t : State) : Prop where
  outputs : ∀ i, i < selectorOutputs w count s →
    wordAt t.mem (s.da.toNat + 4 * (s.oc + i)) = selectorValue w s i
  frame : ∀ a, ¬ (Range.mem ⟨s.da.toNat + 4 * s.oc, s.da.toNat + 4 * (s.oc + selectorOutputs w count s)⟩ a) →
    Memory.read t.mem a = Memory.read s.mem a
  rest : t =
    (let t' := { s with
        mem := t.mem
        wrote := t.wrote
        oc := s.oc + selectorOutputs w count s
        pp := s.pp + selectorBytes w count s
        sc := s.sc + 1 }
     if s.dl.toNat ≤ s.oc + selectorOutputs w count s then
       { t' with
         phase := .idle
         done := true
         result0 := BitVec.ofNat 32 (s.pp + selectorBytes w count s)
         result1 := BitVec.ofNat 32 s.selStart }
     else t')

/-! ## What the pack engine emits, in the words of R93 to R95 -/

/-- R93: the number of blocks of a run, ceil(len / N(w)). -/
def blockCount (x : Run) : Nat := (x.len + x.width.blockInts - 1) / x.width.blockInts

/-- R94: the selector bytes of a run of `nblk` blocks: `nblk div 16` of count 16, whose low nibble is 0, then one of the
`nblk mod 16` blocks left, if any. -/
def emittedSelectors (x : Run) : List Byte :=
  List.replicate (blockCount x / 16) (BitVec.ofNat 8 (16 * x.width.typeCode.toNat)) ++
    if blockCount x % 16 = 0 then []
    else [BitVec.ofNat 8 (16 * x.width.typeCode.toNat + (16 - blockCount x % 16))]

/-- R95: position `i` of the source array, 0 past its end. -/
def valueOrZero (src : List Word) (i : Nat) : Nat :=
  match src[i]? with
  | some v => v.toNat
  | none => 0

/-- R93, R94, R95: the payload of a run: its blocks in order, block `q` of the values from `start + q * N(w)` up, of which
min (N(w), n - b) lie inside the array. -/
def emittedPayload (src : List Word) (x : Run) : List Byte :=
  (List.range (blockCount x)).flatMap (fun q =>
    packBlock x.width (fun j => valueOrZero src (x.start + q * x.width.blockInts + j))
      (min x.width.blockInts (src.length - (x.start + q * x.width.blockInts))))

/-! ## Static checks, in the words of R149 and R150 -/

/-- R149: no static check of ENCODE fails. -/
structure EncodeAdmitted (s : State) : Prop where
  srcAligned : s.sa.toNat % 4 = 0
  dstAligned : s.da.toNat % 4 = 0
  notTooLong : s.sl.toNat ≤ s.params.maxN
  srcLegal : s.sa.toNat + 4 * s.sl.toNat ≤ 2 ^ 32
  dstLegal : s.da.toNat + s.dl.toNat ≤ 2 ^ 32
  apart : ¬ (0 < s.sl.toNat ∧ 0 < s.dl.toNat ∧ s.sa.toNat < s.da.toNat + s.dl.toNat
    ∧ s.da.toNat < s.sa.toNat + 4 * s.sl.toNat)

/-- R150: no static check of DECODE fails. -/
structure DecodeAdmitted (s : State) : Prop where
  srcAligned : s.sa.toNat % 4 = 0
  dstAligned : s.da.toNat % 4 = 0
  srcLegal : s.sa.toNat + 4 * s.sl.toNat ≤ 2 ^ 32
  dstLegal : s.da.toNat + 4 * s.dl.toNat ≤ 2 ^ 32
  apart : ¬ (0 < s.sl.toNat ∧ 0 < s.dl.toNat ∧ s.sa.toNat < s.da.toNat + 4 * s.dl.toNat
    ∧ s.da.toNat < s.sa.toNat + 4 * s.sl.toNat)

/-! ## Tables of the rules -/

/-- A row of R78: the values from `lo` to `hi`, their width and its type code. -/
structure ClassRow where
  lo : Nat
  hi : Nat
  width : Nat
  code : Nat
deriving DecidableEq, Repr

/-- R78: the complete classification table. -/
def classTable : List ClassRow :=
  [⟨1, 1, 0, 0⟩, ⟨0, 0, 1, 1⟩, ⟨2, 3, 2, 2⟩, ⟨4, 7, 3, 3⟩, ⟨8, 0xF, 4, 4⟩, ⟨0x10, 0x1F, 5, 5⟩, ⟨0x20, 0x3F, 6, 6⟩,
   ⟨0x40, 0x7F, 7, 7⟩, ⟨0x80, 0xFF, 8, 8⟩, ⟨0x100, 0x1FF, 9, 9⟩, ⟨0x200, 0x3FF, 10, 10⟩, ⟨0x400, 0xFFF, 12, 11⟩,
   ⟨0x1000, 0xFFFF, 16, 12⟩, ⟨0x10000, 0x1FFFFF, 21, 13⟩, ⟨0x200000, 0xFFFFFFFF, 32, 14⟩]

/-- A row of R138: the values from `lo` to `hi` and the trailer length. -/
structure LenRow where
  lo : Nat
  hi : Nat
  len : Nat
deriving DecidableEq, Repr

/-- R138: the trailer lengths. -/
def lenTable : List LenRow :=
  [⟨0, 2 ^ 7 - 1, 1⟩, ⟨2 ^ 7, 2 ^ 14 - 1, 2⟩, ⟨2 ^ 14, 2 ^ 21 - 1, 3⟩, ⟨2 ^ 21, 2 ^ 28 - 1, 4⟩, ⟨2 ^ 28, 2 ^ 32 - 1, 5⟩]

/-- R74: byte `i` of the trailer of a value. -/
def trailerByte (v i : Nat) : Nat := v / 128 ^ i % 128 + (if i = 0 then 128 else 0)

/-- A row of R69: a width, its TYPE, its kind with its units or value bytes, N(w) and B(w). -/
structure BlockRow where
  width : Nat
  code : Nat
  kind : WidthKind
  ints : Nat
  bytes : Nat
deriving DecidableEq, Repr

/-- R69: the natural block sizes. A direct row holds the bytes of one value, w/8 (R71). -/
def blockTable : List BlockRow :=
  [⟨0, 0, .zero, 256, 0⟩, ⟨1, 1, .packed 1, 128, 16⟩, ⟨2, 2, .packed 1, 64, 16⟩, ⟨3, 3, .packed 1, 40, 16⟩,
   ⟨4, 4, .packed 1, 32, 16⟩, ⟨5, 5, .packed 1, 24, 16⟩, ⟨6, 6, .packed 1, 20, 16⟩, ⟨7, 7, .packed 2, 36, 32⟩,
   ⟨8, 8, .direct 1, 16, 16⟩, ⟨9, 9, .packed 2, 28, 32⟩, ⟨10, 10, .packed 1, 12, 16⟩, ⟨12, 11, .packed 2, 20, 32⟩,
   ⟨16, 12, .direct 2, 8, 16⟩, ⟨21, 13, .packed 2, 12, 32⟩, ⟨32, 14, .direct 4, 4, 16⟩]

/-- R154: every error and its code. -/
def errorTable : List (ErrCode × Nat) :=
  [(.illegalCmd, 0x01), (.misaligned, 0x02), (.addrRange, 0x03), (.overlap, 0x04), (.tooLong, 0x05), (.capacity, 0x06),
   (.badTrailer, 0x07), (.badSelector, 0x08), (.selectorOverrun, 0x09), (.payloadOverrun, 0x0A), (.internal, 0x0B),
   (.busError, 0x0C)]

/-- R21: what the register at `4 * i` reads as, from the fields of the state; every other place of the block is reserved
and reads 0. -/
def registerAt (s : State) : Nat → Word
  | 0 => 0x514D5801
  | 1 => s.ctrlWord
  | 2 => s.statusWord
  | 3 => s.cmd
  | 4 => s.srcAddr
  | 5 => s.srcLen
  | 6 => s.dstAddr
  | 7 => s.dstLen
  | 8 => s.arg
  | 9 => s.result0
  | 10 => s.result1
  | 11 => s.errinfo
  | _ => 0

/-! ## The promoter, in the words of R82 to R87 -/

/-- R82: the promotion chain. -/
def promotionChain : List Nat := [0, 1, 2, 3, 4, 5, 6, 7, 8, 9, 10, 12, 16, 21, 32, 64]

/-- R82: `nw` is NEXT(w), the entry after `w` in the chain. -/
def NextInChain (w nw : Nat) : Prop := ∃ k, promotionChain[k]? = some w ∧ promotionChain[k + 1]? = some nw

/-- The entries of `[p, p + len)` become `f` of what they were, and no other entry changes. -/
def ChangedIn (p len : Nat) (f : Nat → Nat) (ws ws' : List Nat) : Prop :=
  ws'.length = ws.length ∧
    ∀ i, i < ws.length → ws'.getD i 0 = if p ≤ i ∧ i < p + len then f (ws.getD i 0) else ws.getD i 0

/-- R83: every entry of the groups of four that hold one of the `n` values becomes its group's maximum. -/
def CoarselyAligned (n : Nat) (ws ws' : List Nat) : Prop :=
  ws'.length = ws.length ∧
    ∀ i, i < ws.length → ws'.getD i 0 =
      if i < 4 * ((n + 3) / 4) then
        max (max (ws.getD (4 * (i / 4)) 0) (ws.getD (4 * (i / 4) + 1) 0))
          (max (ws.getD (4 * (i / 4) + 2) 0) (ws.getD (4 * (i / 4) + 3) 0))
      else ws.getD i 0

/-- `m` is the largest of the entries of `[p, n)`. -/
def LargestIn (ws : List Nat) (p n m : Nat) : Prop :=
  (∀ i, p ≤ i → i < n → ws.getD i 0 ≤ m) ∧ ∃ i, p ≤ i ∧ i < n ∧ ws.getD i 0 = m

/-- R87: the width the short-end rule gives `rem` remaining values whose largest width is `m`; the first row that matches
applies. -/
inductive ShortEnd (rem m : Nat) : Nat → Prop where
  | eight : rem < 16 → m ≤ 8 → ShortEnd rem m 8
  | sixteen : ¬ (rem < 16 ∧ m ≤ 8) → rem < 8 → m ≤ 16 → ShortEnd rem m 16
  | thirtyTwo : ¬ (rem < 16 ∧ m ≤ 8) → ¬ (rem < 8 ∧ m ≤ 16) → rem < 4 → ShortEnd rem m 32

/-- R87: the short-end rule does not apply at `p`. -/
def NoShortEnd (se : Bool) (n p : Nat) (ws : List Nat) : Prop :=
  se = true → ∀ m width, LargestIn ws p n m → ¬ ShortEnd (n - p) m width

/-- R84 to R87: the scan takes the width array `ws` at position `p` to `ws'`, where it ends at `p'`. -/
inductive Promotes (scope : PromoteScope) (se : Bool) (n : Nat) : Nat → List Nat → Nat → List Nat → Prop where
  /-- R84: no value remains. -/
  | ends {p : Nat} {ws : List Nat} : n ≤ p → Promotes scope se n p ws p ws
  /-- R87: the short-end rule takes every remaining value. -/
  | shortEnd {p m width : Nat} {ws ws' : List Nat} : p < n → se = true → LargestIn ws p n m →
      ShortEnd (n - p) m width → ChangedIn p (n - p) (fun _ => width) ws ws' → Promotes scope se n p ws p ws'
  /-- R85: an entry of the window exceeds the width at `p`; the promotion step, and the scan again from `p`. -/
  | promotes {p nw p' : Nat} {ws ws₁ ws' : List Nat} {row : BlockRow} : p < n → NoShortEnd se n p ws →
      row ∈ blockTable → row.width = ws.getD p 0 → (∃ i, p ≤ i ∧ i < p + row.ints ∧ row.width < ws.getD i 0) →
      NextInChain row.width nw → (scope = .window → ChangedIn p row.ints (fun x => max x nw) ws ws₁) →
      (scope = .head → ChangedIn p 1 (fun _ => nw) ws ws₁) → Promotes scope se n p ws₁ p' ws' →
      Promotes scope se n p ws p' ws'
  /-- R86: no entry of the window exceeds the width at `p`; the window is filled with it and the scan goes on after it. -/
  | fills {p p' : Nat} {ws ws₁ ws' : List Nat} {row : BlockRow} : p < n → NoShortEnd se n p ws →
      row ∈ blockTable → row.width = ws.getD p 0 → (∀ i, p ≤ i → i < p + row.ints → ws.getD i 0 ≤ row.width) →
      ChangedIn p row.ints (fun _ => row.width) ws ws₁ → Promotes scope se n (p + row.ints) ws₁ p' ws' →
      Promotes scope se n p ws p' ws'

/-! ## The accesses of a command, in order (R156, R157) -/

/-- A MemRead or MemWrite (R12). -/
structure Access where
  addr : Nat
  size : Nat
  write : Bool
deriving DecidableEq, Repr

/-- R156: access `k` of the list is the first with a byte that answers with a bus error, and it is `x`. -/
structure FirstBusError (p : Params) (l : List Access) (k : Nat) (x : Access) : Prop where
  here : l[k]? = some x
  fails : ∃ i, i < x.size ∧ busErrAt p (x.addr + i) = true
  before : ∀ j y, j < k → l[j]? = some y → ∀ i, i < y.size → busErrAt p (y.addr + i) = false

/-- R81: ENCODE's reads of its source words. -/
def sourceReads (s : State) : List Access := (List.range s.sl.toNat).map (fun i => ⟨s.sa.toNat + 4 * i, 4, false⟩)

/-- R149: ENCODE's writes of a buffer of `len` bytes. -/
def bufferWrites (s : State) (len : Nat) : List Access := (List.range len).map (fun i => ⟨s.da.toNat + i, 1, true⟩)

/-- R123 to R137: the accesses of a block of `r` values with its payload at `src` and its outputs at `dst`. -/
def blockAccesses (w : Width) (r src dst : Nat) : List Access :=
  match w.kind with
  | .zero => (List.range r).map (fun j => ⟨dst + 4 * j, 4, true⟩)
  | .packed units =>
    (List.range 4).flatMap (fun l => (List.range units).map (fun h => ⟨src + 16 * h + 4 * l, 4, false⟩))
      ++ (List.range r).map (fun j => ⟨dst + 4 * j, 4, true⟩)
  | .direct bytes =>
    (List.range r).flatMap (fun j => [⟨src + bytes * j, bytes, false⟩, ⟨dst + 4 * j, 4, true⟩])

/-- R115: the accesses of a selector of `count` blocks, up to the output count. -/
def selectorAccesses (w : Width) (count : Nat) (s : State) : List Access :=
  (List.range ((selectorOutputs w count s + w.blockInts - 1) / w.blockInts)).flatMap (fun q =>
    blockAccesses w (min w.blockInts (s.dl.toNat - (s.oc + q * w.blockInts)))
      (s.sa.toNat + s.pp + q * w.blockBytes) (s.da.toNat + 4 * (s.oc + q * w.blockInts)))

/-- R141, R156: the backward scan of the `len` bytes at `base` reads `k` bytes that answer and carry no terminator, and
the next one answers with a bus error. -/
structure ScanBusError (s : State) (base len k : Nat) : Prop where
  short : k < 5
  inside : k < len
  before : ∀ j, j < k → busErrAt s.params (base + (len - 1 - j)) = false
    ∧ (Memory.read s.mem (base + (len - 1 - j))).toNat < 128
  fails : busErrAt s.params (base + (len - 1 - k)) = true

/-! ## The host's duties (R173) -/

/-- R173: what a breach of the host's duties leaves. Every byte of the two ranges is a free value and no other byte changes;
the engine context and the operand registers stay. A running command's outcome is open from then on; a completed command's
results are free values, within R24 and R154. -/
structure Breached (s t : State) : Prop where
  inside : Memory.wf s.mem = true → ∀ a, (runningSource s).mem a ∨ (runningDest s).mem a → a < 2 ^ 32 →
    Memory.read t.mem a = Config.freeByte s.freeCtr a
  outside : ∀ a, ¬ (runningSource s).mem a → ¬ (runningDest s).mem a → Memory.read t.mem a = Memory.read s.mem a
  running : s.busy = true →
    t = { s with phase := .breached, wrote := true, mem := t.mem, freeCtr := t.freeCtr, host := t.host, rdata := t.rdata }
  completed : s.busy = false →
    t = { s with mem := t.mem, freeCtr := t.freeCtr, host := t.host, rdata := t.rdata, done := t.done, err := t.err,
                 errcode := t.errcode, errinfo := t.errinfo, result0 := Config.freeWord s.freeCtr 0,
                 result1 := Config.freeWord s.freeCtr 1 }
      ∧ ¬ (t.done = true ∧ t.err = true) ∧ (t.err = false → t.errcode = 0)
      ∧ (t.err = true → 1 ≤ t.errcode.toNat ∧ t.errcode.toNat ≤ 12)

/-! ## What does not matter -/

/-- R35 to R40, R42: the state with its scratch forgotten: the encoder's always, the decoder's context and cursors
unless a DECODE is in its selector loop. -/
def forgetScratch (s : State) : State :=
  let s' := { s with widths := [], selbuf := [], p := 0, rs := 0, rl := 0, b := 0, ob := 0 }
  if s.phase = .unpack then s'
  else { s' with bufLen := 0, trlLen := 0, trlVal := 0, selStart := 0, sc := 0, pp := 0, oc := 0 }

/-- The state with its memory forgotten: the registers and the engine alone. -/
def forgetMemory (s : State) : State := { s with mem := [] }

/-- R26: the operand registers. -/
def operandRegs : List Reg := [.srcAddr, .srcLen, .dstAddr, .dstLen, .arg]

/-- R21, R29: the registers that ignore every write. -/
def readOnlyRegs : List Reg := [.id, .result0, .result1, .errinfo]

end Sys2Proof.Machine
end

