-- ==== Sys2Proof/Certificates/Slice0/Obligations.lean ====
section
/-! DEFINITION. The statements about the model, for the provers. -/

open Sys2Proof Sys2Proof.Machine

/-! ## Encoding and decoding -/

/-- Words written out from R63 and R68 decode to their instructions: the five command words and one selector of every
width. That the four bytes of a command word come least significant first is the model's choice (log 25); the spec gives a
command word's bytes no order. -/
def Obligations.WrittenOutWordsDecode : Prop :=
  decode [0x01, 0x00, 0x00, 0x00] = .ok .cmdEncode ∧ decode [0x02, 0x00, 0x00, 0x00] = .ok .cmdDecode ∧
  decode [0x03, 0x00, 0x00, 0x00] = .ok .cmdClassify ∧ decode [0x04, 0x00, 0x00, 0x00] = .ok .cmdVbyteEnc ∧
  decode [0x05, 0x00, 0x00, 0x00] = .ok .cmdVbyteDec ∧
  decode [0x00] = .ok (.selW0 16) ∧ decode [0x1F] = .ok (.selW1 1) ∧ decode [0x2F] = .ok (.selW2 1) ∧
  decode [0x3F] = .ok (.selW3 1) ∧ decode [0x40] = .ok (.selW4 16) ∧ decode [0x5E] = .ok (.selW5 2) ∧
  decode [0x6D] = .ok (.selW6 3) ∧ decode [0x7F] = .ok (.selW7 1) ∧ decode [0x8F] = .ok (.selW8 1) ∧
  decode [0x91] = .ok (.selW9 15) ∧ decode [0xA8] = .ok (.selW10 8) ∧ decode [0xB7] = .ok (.selW12 9) ∧
  decode [0xCE] = .ok (.selW16 2) ∧ decode [0xDF] = .ok (.selW21 1) ∧ decode [0xEF] = .ok (.selW32 1)

/-- R63, R65, R68: decoding the encoding of any well-formed instruction gives it back, at every value of the count. -/
def Obligations.DecodeOfEncodeIsTheInstruction : Prop :=
  ∀ i : Instr, i.wellFormed = true → decode (encode i) = .ok i

/-- R63, R65, R68: every byte sequence has at most one reading: what decodes is the encoding of what it decodes to,
which is well formed. -/
def Obligations.EncodeOfDecodeIsTheBytes : Prop :=
  ∀ (bytes : List Byte) (i : Instr), decode bytes = .ok i → encode i = bytes ∧ i.wellFormed = true

/-- R63: a command word is legal only if it is one of the five words 1 to 5. -/
def Obligations.LegalCommandWordsAreOneToFive : Prop :=
  ∀ cw : Word, (∃ i, decodeCommand cw = .ok i) ↔ (1 ≤ cw.toNat ∧ cw.toNat ≤ 5)

/-- R65, R67, R68: a selector byte below 0xF0 is the selector of width WIDTHS[TYPE] with 16 - CNT blocks; one from 0xF0
up names nothing. -/
def Obligations.SelectorByteFields : Prop :=
  ∀ sel : Byte,
    if sel.toNat < 0xF0 then
      ∃ w : Width, allWidths[sel.toNat / 16]? = some w ∧ decodeSelector sel = .ok (Instr.sel w (16 - sel.toNat % 16))
    else decodeSelector sel = .error .reservedSelector

/-- R76: RUN expands to the selectors the pack engine emits for so many blocks, in the same order. -/
def Obligations.RunExpandsToTheEmittedSelectors : Prop :=
  ∀ (w : Width) (blocks : Nat), 1 ≤ blocks →
    (expandRun w blocks).flatMap encode = (selectorCounts blocks blocks).map (selectorByte w)

/-! ## A step runs the decoded instruction -/

/-- On the engine's turn, a started command's step is exec of the instruction its latched word decodes to, and a step of
the selector loop, with output still to be written, the cursor below the trailer and the byte readable, is exec of the
instruction the byte at SA + sc decodes to. Nothing is added around exec but the use of the host's turn. What one step
is, and whose turn it is, are the model's choices (log 1, log 2). -/
def Obligations.StepRunsTheDecodedInstruction : Prop :=
  (∀ (s : State) (i : Instr), EngineMoves s → s.phase = .started →
    decode (leBytes 4 s.op.toNat) = .ok i → step s = exec i (afterTurn s)) ∧
  (∀ (s : State) (i : Instr), EngineMoves s → s.phase = .unpack → s.oc < s.dl.toNat → s.sc < s.bufLen - s.trlLen →
    s.sa.toNat + s.sc < 2 ^ 32 → busErrAt s.params (s.sa.toNat + s.sc) = false →
    decode [Memory.read s.mem (s.sa.toNat + s.sc)] = .ok i → step s = exec i (afterTurn s))

/-- R147, R154: a started command whose word is not one of the five ends with ILLEGAL_CMD and ERRINFO the word; memory and
every other register keep their contents. -/
def Obligations.IllegalCommandWordEndsWithIllegalCmd : Prop :=
  ∀ s : State, EngineMoves s → s.phase = .started → s.wrote = false → (s.op.toNat = 0 ∨ 5 < s.op.toNat) →
    step s = .next { afterTurn s with
      errcode := 0x01, errinfo := s.op, err := true, phase := .idle, freeCtr := s.freeCtr + 1 }

/-- R117, R118: at the head of the selector loop, a cursor at the trailer ends DECODE with SELECTOR_OVERRUN and a byte
of TYPE 15 with BAD_SELECTOR, both with ERRINFO = sc; R156: a selector byte that answers with a bus error ends it with
BUS_ERROR and ERRINFO its address. No result register changes, and no byte outside the destination range does. -/
def Obligations.SelectorFetchErrors : Prop :=
  ∀ s : State, EngineMoves s → s.phase = .unpack → s.oc < s.dl.toNat →
    (s.bufLen - s.trlLen ≤ s.sc → ∃ t, step s = .next t ∧
      t = { afterTurn s with errcode := 0x09, errinfo := BitVec.ofNat 32 s.sc, err := true, phase := .idle,
                             freeCtr := s.freeCtr + 1, mem := t.mem } ∧
      ∀ a, (s.wrote = false ∨ ¬ (decodeDest s).mem a) → Memory.read t.mem a = Memory.read s.mem a) ∧
    (s.sc < s.bufLen - s.trlLen → s.sa.toNat + s.sc < 2 ^ 32 → busErrAt s.params (s.sa.toNat + s.sc) = false →
      0xF0 ≤ (Memory.read s.mem (s.sa.toNat + s.sc)).toNat → ∃ t, step s = .next t ∧
      t = { afterTurn s with errcode := 0x08, errinfo := BitVec.ofNat 32 s.sc, err := true, phase := .idle,
                             freeCtr := s.freeCtr + 1, mem := t.mem } ∧
      ∀ a, (s.wrote = false ∨ ¬ (decodeDest s).mem a) → Memory.read t.mem a = Memory.read s.mem a) ∧
    (s.sc < s.bufLen - s.trlLen → s.sa.toNat + s.sc < 2 ^ 32 → busErrAt s.params (s.sa.toNat + s.sc) = true →
      ∃ t, step s = .next t ∧
      t = { afterTurn s with errcode := 0x0C, errinfo := BitVec.ofNat 32 (s.sa.toNat + s.sc), err := true,
                             phase := .idle, freeCtr := s.freeCtr + 1, mem := t.mem } ∧
      ∀ a, (s.wrote = false ∨ ¬ (decodeDest s).mem a) → Memory.read t.mem a = Memory.read s.mem a)

/-! ## The register block -/

/-- R169: after reset every register reads its reset value, every reserved offset reads 0, the engine is idle and the IRQ
output is 0. -/
def Obligations.ResetRegisterValues : Prop :=
  readReg State.reset .id = 0x514D5801 ∧ readReg State.reset .ctrl = 0x00000002 ∧
  (∀ r : Reg, r ≠ .id → r ≠ .ctrl → readReg State.reset r = 0) ∧
  (∀ off, 0x30 ≤ off → readOffset State.reset off = 0) ∧
  State.reset.phase = .idle ∧ State.reset.irq = false

/-- R24, R23, R29: the bits of STATUS and CTRL as they read; the reserved ones and SRST read 0. -/
def Obligations.StatusAndCtrlBits : Prop :=
  ∀ (s : State) (k : Nat),
    (s.statusWord.getLsbD k =
      if k = 0 then s.busy else if k = 1 then s.done else if k = 2 then s.err else if k = 3 then s.cmdLost
      else if 8 ≤ k ∧ k < 16 then s.errcode.getLsbD (k - 8) else false) ∧
    (s.ctrlWord.getLsbD k = if k = 0 then s.ie else if k = 1 then s.shortEnd else false)

/-- R21, R45, R29: a 32-bit read at REG_BASE + 4i returns the register that R21 puts there, in every state, or 0 at a
reserved offset, and changes nothing else of the block, the engine and memory. R173: a read of STATUS while BUSY is 0 is
noted as the host's observation of BUSY = 0 (log 33). -/
def Obligations.RegisterReadHasNoSideEffect : Prop :=
  ∀ (s : State) (rest : List HostAction) (i : Nat), i < 64 → s.params.regBase.toNat + 4 * i < 2 ^ 32 →
    s.host = .regRead .bits32 (s.params.regBase + BitVec.ofNat 32 (4 * i)) :: rest →
    step s = .next { s with
      host := rest
      unseen := if i = 2 ∧ s.busy = false then false else s.unseen
      rdata := match Reg.ofOffset? (4 * i) with
        | some r => readReg s r
        | none => 0 } ∧
    step s = .next { s with
      host := rest, unseen := if i = 2 ∧ s.busy = false then false else s.unseen, rdata := registerAt s i }

/-- R21, R26: a write to an operand register is what the next read of it returns, and changes no other register, no engine
state and no memory, busy or not; the five stand at offsets 0x10, 0x14, 0x18, 0x1C and 0x20. -/
def Obligations.OperandRegisterWriteReadsBack : Prop :=
  (∀ (s : State) (r : Reg) (v : Word) (rest : List HostAction), r ∈ operandRegs →
    s.params.regBase.toNat + 256 ≤ 2 ^ 32 →
    s.host = .regWrite .bits32 (s.params.regBase + BitVec.ofNat 32 r.offset) v :: rest →
    ∃ t, step s = .next t ∧ readReg t r = v ∧ (∀ q : Reg, q ≠ r → readReg t q = readReg s q) ∧
      t = { s with host := rest, srcAddr := t.srcAddr, srcLen := t.srcLen, dstAddr := t.dstAddr, dstLen := t.dstLen,
                   arg := t.arg }) ∧
  (∀ (s : State) (off : Nat) (v : Word) (rest : List HostAction), s.params.regBase.toNat + 256 ≤ 2 ^ 32 →
    s.host = .regWrite .bits32 (s.params.regBase + BitVec.ofNat 32 off) v :: rest →
    (off = 0x10 → step s = .next { s with host := rest, srcAddr := v }) ∧
    (off = 0x14 → step s = .next { s with host := rest, srcLen := v }) ∧
    (off = 0x18 → step s = .next { s with host := rest, dstAddr := v }) ∧
    (off = 0x1C → step s = .next { s with host := rest, dstLen := v }) ∧
    (off = 0x20 → step s = .next { s with host := rest, arg := v }))

/-- R21, R29: writes to the reserved offsets 0x30 to 0xFC and to the read-only registers ID (0x00), RESULT0 (0x24),
RESULT1 (0x28) and ERRINFO (0x2C) are ignored. -/
def Obligations.ReservedAndReadOnlyWritesIgnored : Prop :=
  ∀ (s : State) (off : Nat) (v : Word) (rest : List HostAction), off < 256 → off % 4 = 0 →
    s.params.regBase.toNat + off < 2 ^ 32 → (0x30 ≤ off ∨ off = 0x00 ∨ off = 0x24 ∨ off = 0x28 ∨ off = 0x2C) →
    s.host = .regWrite .bits32 (s.params.regBase + BitVec.ofNat 32 off) v :: rest →
    step s = .next { s with host := rest }

/-- R24, R159: a write to STATUS clears exactly the W1C bits written as 1, a 1 to ERR also clears ERRCODE, and nothing
else changes: BUSY, ERRINFO and the results keep their values. -/
def Obligations.StatusWriteClearsWrittenBits : Prop :=
  ∀ (s : State) (v : Word) (rest : List HostAction), s.params.regBase.toNat + 256 ≤ 2 ^ 32 →
    s.host = .regWrite .bits32 (s.params.regBase + 8) v :: rest →
    step s = .next { s with
      host := rest
      done := if v.getLsbD 1 then false else s.done
      err := if v.getLsbD 2 then false else s.err
      cmdLost := if v.getLsbD 3 then false else s.cmdLost
      errcode := if v.getLsbD 2 then 0 else s.errcode }

/-- R25, R33, R145: a CMD write while BUSY = 0 latches the word and the operands, clears DONE, ERR, ERRCODE and ERRINFO,
sets BUSY and leaves CMD_LOST, the results and memory. The host's duties of R173 begin. -/
def Obligations.CmdWriteWhileIdleStartsTheCommand : Prop :=
  ∀ (s : State) (cw : Word) (rest : List HostAction), s.params.regBase.toNat + 256 ≤ 2 ^ 32 → s.busy = false →
    s.host = .regWrite .bits32 (s.params.regBase + 12) cw :: rest →
    ∃ t, step s = .next t ∧ t.busy = true ∧ t.irq = false ∧ t.guarded = true ∧
      t = { s with
        host := rest, cmd := cw, done := false, err := false, errcode := 0, errinfo := 0,
        op := cw, sa := s.srcAddr, sl := s.srcLen, da := s.dstAddr, dl := s.dstLen, ar := s.arg, se := s.shortEnd,
        wrote := false, unseen := true, phase := .started }

/-- R25, R174: a CMD write while BUSY = 1 is lost: it only sets CMD_LOST. -/
def Obligations.CmdWriteWhileBusyIsLost : Prop :=
  ∀ (s : State) (cw : Word) (rest : List HostAction), s.params.regBase.toNat + 256 ≤ 2 ^ 32 → s.busy = true →
    s.host = .regWrite .bits32 (s.params.regBase + 12) cw :: rest →
    step s = .next { s with host := rest, cmdLost := true }

/-- R171, R169: a CTRL write with bit 31 set gives every register its reset value, whatever its other bits; the engine
is idle, and memory is unchanged outside the destination range of a running command; it is wholly unchanged if no
command ran or the command has not begun to write. When a command has begun to write is the model's choice (log 12): it
has performed a MemWrite, or it is an ENCODE that has yet to take its step, whose progress is open. A CTRL write with bit 31
clear sets IE and SHORT_END alone. -/
def Obligations.CtrlWriteAndSoftReset : Prop :=
  ∀ (s : State) (v : Word) (rest : List HostAction), s.params.regBase.toNat + 256 ≤ 2 ^ 32 →
    s.host = .regWrite .bits32 (s.params.regBase + 4) v :: rest →
    (v.getLsbD 31 = true → ∃ t, step s = .next t ∧ (∀ r : Reg, readReg t r = readReg State.reset r) ∧
      t.phase = .idle ∧ t.irq = false ∧
      (s.busy = false ∨ (s.wrote = false ∧ (s.phase ≠ .started ∨ s.op ≠ 1)) → t.mem = s.mem) ∧
      (∀ a, ¬ (runningDest s).mem a → Memory.read t.mem a = Memory.read s.mem a)) ∧
    (v.getLsbD 31 = false → step s = .next { s with host := rest, ie := v.getLsbD 0, shortEnd := v.getLsbD 1 })

/-- R169, R170, R168: the reset input gives every register its reset value, leaves the engine idle with the IRQ output 0,
and changes no byte of memory, whether a command runs or not. An idle engine with no host action waits and keeps
everything. -/
def Obligations.HardwareResetAndIdleWait : Prop :=
  ∀ (s : State) (rest : List HostAction),
    (s.host = .hwReset :: rest → ∃ t, step s = .next t ∧ (∀ r : Reg, readReg t r = readReg State.reset r) ∧
      t.phase = .idle ∧ t.irq = false ∧ t.host = rest ∧ t.params = s.params ∧
      t.mem = s.mem) ∧
    (s.host = [] → s.phase = .idle → step s = .next s)

/-- R173, as the model takes it (log 14, log 33): the duties hold from a CMD write that starts a command until the host
observes BUSY = 0, and the ranges are those of the command started last. A host write to memory stores its byte and changes
nothing else when no duty holds or it is outside the ranges, and a host read returns the byte and changes nothing else when no
duty holds or it is outside the destination range, a read of the source range among the rest. A write inside either range, and
a read inside the destination range, is a breach: every byte of the two ranges is unspecified, and no other byte changes.
While the command runs, its outcome is unspecified from then on: it completes with DONE or ERR but not both, and no byte
outside the two ranges changes. After it has completed, the results are unspecified, DONE and ERR are still never both 1,
ERRCODE is a code of R154 exactly while ERR is 1, and every other register keeps its value. The end of WAIT (R76) is an
observation, and a reset, by the input or by CTRL, ends the duties. Where memory answers with a bus error, the
model refuses the host's access (log 17). That all this holds at the addresses REG_BASE to REG_BASE + 255 too, where the access reaches host memory and is no narrow
register access of R45, is the model's choice (log 31). -/
def Obligations.HostMemoryWritesAndBreaches : Prop :=
  ∀ s : State, (s.guarded = true ↔ s.busy = true ∨ s.unseen = true) ∧
    (∀ addr v rest, s.host = .memWrite addr v :: rest → busErrAt s.params addr.toNat = false →
      (s.guarded = false ∨ (¬ (runningSource s).mem addr.toNat ∧ ¬ (runningDest s).mem addr.toNat) →
        step s = .next { s with host := rest, mem := Memory.write s.mem addr.toNat v }) ∧
      (s.guarded = true → ((runningSource s).mem addr.toNat ∨ (runningDest s).mem addr.toNat) →
        ∃ t, step s = .next t ∧ t.host = rest ∧ t.rdata = s.rdata ∧ Breached s t)) ∧
    (∀ addr rest, s.host = .memRead addr :: rest → busErrAt s.params addr.toNat = false →
      (s.guarded = false ∨ ¬ (runningDest s).mem addr.toNat →
        step s = .next { s with host := rest, rdata := (Memory.read s.mem addr.toNat).setWidth 32 }) ∧
      (s.guarded = true → (runningDest s).mem addr.toNat →
        ∃ t, step s = .next t ∧ t.host = rest ∧ t.rdata = (Memory.read t.mem addr.toNat).setWidth 32 ∧ Breached s t)) ∧
    (∀ addr v rest, (s.host = .memWrite addr v :: rest ∨ s.host = .memRead addr :: rest) →
      busErrAt s.params addr.toNat = true → step s = .refused .hostMemoryError) ∧
    (s.phase = .breached → s.done = false → s.err = false → EngineMoves s →
      ∃ t, step s = .next t ∧ t.busy = false ∧ (t.done = true ↔ t.err = false) ∧ t.unseen = s.unseen ∧
        (Memory.wf s.mem = true → ∀ a, (runningSource s).mem a ∨ (runningDest s).mem a → a < 2 ^ 32 →
          Memory.read t.mem a = Config.freeByte s.freeCtr a) ∧
        ∀ a, ¬ (runningSource s).mem a → ¬ (runningDest s).mem a → Memory.read t.mem a = Memory.read s.mem a) ∧
    (∀ rest, s.host = .wait :: rest → s.busy = false → step s = .next { s with host := rest, unseen := false }) ∧
    (∀ rest, s.host = .hwReset :: rest → ∃ t, step s = .next t ∧ t.guarded = false) ∧
    (∀ v : Word, v.getLsbD 31 = true → (writeReg s .ctrl v).guarded = false)

/-- R30, R161: the IRQ output is 1 exactly while IE and one of DONE and ERR are 1: a completion and an error completion
raise it when IE is 1, a command start and a write of 1 to the set bit of STATUS drop it. R42: a host that samples it reads
its level and changes nothing else but that, R58, a 1 while BUSY is 0 is an observation of the completion (log 33). -/
def Obligations.IrqFollowsCompletion : Prop :=
  ∀ s : State,
    (∀ r0 r1, (complete s r0 r1).irq = s.ie) ∧ (∀ d e info, (raiseError s d e info).irq = s.ie) ∧
    (∀ cw, (startCommand s cw).irq = false) ∧
    (∀ v : Word, v.getLsbD 1 = true → v.getLsbD 2 = true → (acknowledge s v).irq = false) ∧
    (∀ v : Word, s.err = false → v.getLsbD 1 = true → (acknowledge s v).irq = false) ∧
    (∀ v : Word, s.done = false → v.getLsbD 2 = true → (acknowledge s v).irq = false) ∧
    (s.irq = true ↔ s.ie = true ∧ (s.done = true ∨ s.err = true)) ∧
    (∀ rest, s.host = .irqRead :: rest → step s = .next { s with
      host := rest, rdata := if s.irq = true then 1 else 0,
      unseen := if s.irq = true ∧ s.busy = false then false else s.unseen })

/-- R20, R45: a host access to the register block that is not 32 bits wide, or not at a multiple of 4 from REG_BASE, is
refused. -/
def Obligations.OtherRegisterAccessesAreRefused : Prop :=
  ∀ (s : State) (w : AccessWidth) (addr v : Word) (rest : List HostAction),
    (w ≠ .bits32 ∨ (addr.toNat - s.params.regBase.toNat) % 4 ≠ 0) →
    (s.host = .regWrite w addr v :: rest ∨ s.host = .regRead w addr :: rest) →
    step s = .refused .unsupportedRegisterAccess

/-! ## CLASSIFY, VBYTE_ENC and VBYTE_DEC -/

/-- R151, R77, R78: CLASSIFY completes in every state with the width and the type code of ARG's row of the table, and
changes nothing else. -/
def Obligations.ClassifyCompletesWithItsTableRow : Prop :=
  ∀ s : State, ∃ row ∈ classTable, row.lo ≤ s.ar.toNat ∧ s.ar.toNat ≤ row.hi ∧
    exec .cmdClassify s = .next { s with
      result0 := BitVec.ofNat 32 row.width, result1 := BitVec.ofNat 32 row.code, phase := .idle, done := true }

/-- R79: a value fits the field of its width, or it is the 1 that width 0 marks; every wider field holds it exactly too. -/
def Obligations.ClassifiedWidthHoldsTheValue : Prop :=
  ∀ v : Word, ((classify v = .w0 ∧ v = 1) ∨ v.toNat ≤ 2 ^ (classify v).bits - 1) ∧
    ∀ w : Width, w ≠ .w0 → (classify v).bits ≤ w.bits → v.toNat % 2 ^ w.bits = v.toNat

/-- R152, R138, R139: VBYTE_ENC completes in every state; T is the length of R138's table, RESULT0 holds trailer bytes
0 to 3 and RESULT1 byte 4 and T, each 0 where absent, and nothing else changes. -/
def Obligations.VbyteEncCompletesWithTheTrailerBytes : Prop :=
  ∀ s : State, ∃ row ∈ lenTable, row.lo ≤ s.ar.toNat ∧ s.ar.toNat ≤ row.hi ∧
    exec .cmdVbyteEnc s = .next { s with
      result0 := BitVec.ofNat 32
        (((List.range 4).map (fun i => if i < row.len then trailerByte s.ar.toNat i * 256 ^ i else 0)).sum)
      result1 := BitVec.ofNat 32 ((if row.len = 5 then trailerByte s.ar.toNat 4 else 0) + row.len * 256)
      phase := .idle, done := true }

/-- R153, R141: VBYTE_DEC completes when its range is legal, answers, and ends in a trailer of `t` bytes whose value is
below 2^32: RESULT0 is the value, RESULT1 is `t`, and nothing else changes. No alignment is asked. -/
def Obligations.VbyteDecCompletesOnATrailer : Prop :=
  ∀ (s : State) (t : Nat), s.sa.toNat + s.sl.toNat ≤ 2 ^ 32 → NoBusErr s.params (byteSource s) →
    TrailerAt s.mem s.sa.toNat s.sl.toNat t → trailerValue s.mem s.sa.toNat s.sl.toNat t < 2 ^ 32 →
    exec .cmdVbyteDec s = .next { s with
      result0 := BitVec.ofNat 32 (trailerValue s.mem s.sa.toNat s.sl.toNat t), result1 := BitVec.ofNat 32 t,
      phase := .idle, done := true }

/-- R153, R141, R51: when VBYTE_DEC ends with an error: ADDR_RANGE(1) for a range that wraps; else, in a range that
answers, BAD_TRAILER with 2 when the last five bytes lack the terminator, with 1 when a shorter range ends before one,
with 3 when the value is 2^32 or more. Memory and the results are unchanged. -/
def Obligations.VbyteDecErrors : Prop :=
  ∀ s : State, s.wrote = false →
    (2 ^ 32 < s.sa.toNat + s.sl.toNat → exec .cmdVbyteDec s = .next (failedUnwritten s .addrRange 1)) ∧
    (s.sa.toNat + s.sl.toNat ≤ 2 ^ 32 → NoBusErr s.params (byteSource s) →
      (5 ≤ s.sl.toNat → (∀ i, s.sl.toNat - 5 ≤ i → i < s.sl.toNat → (Memory.read s.mem (s.sa.toNat + i)).toNat < 128) →
        exec .cmdVbyteDec s = .next (failedUnwritten s .badTrailer 2)) ∧
      (s.sl.toNat < 5 → (∀ i, i < s.sl.toNat → (Memory.read s.mem (s.sa.toNat + i)).toNat < 128) →
        exec .cmdVbyteDec s = .next (failedUnwritten s .badTrailer 1)) ∧
      (∀ t, TrailerAt s.mem s.sa.toNat s.sl.toNat t → 2 ^ 32 ≤ trailerValue s.mem s.sa.toNat s.sl.toNat t →
        exec .cmdVbyteDec s = .next (failedUnwritten s .badTrailer 3)))

/-- R144: the backward decoder of a range that ends in the encoding of a value returns the value and its length. -/
def Obligations.TrailerRoundTrip : Prop :=
  ∀ (s : State) (base len v : Nat), v < 2 ^ 32 → vlen v ≤ len → base + len ≤ 2 ^ 32 →
    NoBusErr s.params ⟨base + (len - vlen v), base + len⟩ → BytesAt s.mem (base + (len - vlen v)) (vbyteEnc v) →
    vbyteDec s base len = .ok (v, vlen v)

/-! ## ENCODE -/

/-- R149, R157, R48, R51, R52: ENCODE's static checks in their order, each with its code and ERRINFO; the first that
fails ends the command with memory, the results and every other register unchanged. -/
def Obligations.EncodeStaticCheckOrder : Prop :=
  ∀ s : State, s.wrote = false →
    if s.sa.toNat % 4 ≠ 0 then exec .cmdEncode s = .next (failedUnwritten s .misaligned 1)
    else if s.da.toNat % 4 ≠ 0 then exec .cmdEncode s = .next (failedUnwritten s .misaligned 2)
    else if s.params.maxN < s.sl.toNat then exec .cmdEncode s = .next (failedUnwritten s .tooLong 0)
    else if 2 ^ 32 < s.sa.toNat + 4 * s.sl.toNat then exec .cmdEncode s = .next (failedUnwritten s .addrRange 1)
    else if 2 ^ 32 < s.da.toNat + s.dl.toNat then exec .cmdEncode s = .next (failedUnwritten s .addrRange 2)
    else if 0 < s.sl.toNat ∧ 0 < s.dl.toNat ∧ s.sa.toNat < s.da.toNat + s.dl.toNat ∧
        s.da.toNat < s.sa.toNat + 4 * s.sl.toNat then
      exec .cmdEncode s = .next (failedUnwritten s .overlap 0)
    else EncodeAdmitted s

/-- R149, R146, R54, R156: an admitted ENCODE whose ranges answer has a compressed buffer for its source words, and
completes when the buffer fits: the L bytes at DA are the buffer, every other byte of memory is unchanged, RESULT0 is L/4
and RESULT1 is S, and no register but those and DONE, BUSY changes. When it does not fit, it ends with CAPACITY and
ERRINFO = L, memory unchanged. -/
def Obligations.EncodeWritesItsBufferOrReportsCapacity : Prop :=
  ∀ s : State, Memory.wf s.mem = true → EncodeAdmitted s → NoBusErr s.params (wordSource s) →
    NoBusErr s.params (encodeDest s) → ∃ r : Encoded, encodeBuffer s.params.promoteScope s.se (sourceWords s) = .ok r ∧
      (r.bytes.length ≤ s.dl.toNat → ∃ t, exec .cmdEncode s = .next t ∧
        BytesAt t.mem s.da.toNat r.bytes ∧
        (∀ a, ¬ (Range.mem ⟨s.da.toNat, s.da.toNat + r.bytes.length⟩ a) → Memory.read t.mem a = Memory.read s.mem a) ∧
        t = { s with
          mem := t.mem, result0 := BitVec.ofNat 32 (r.bytes.length / 4), result1 := BitVec.ofNat 32 r.payload.length,
          phase := .idle, done := true, wrote := true, widths := r.widths, selbuf := r.sels,
          p := t.p, rs := t.rs, rl := t.rl, b := t.b, ob := r.payload.length }) ∧
      (s.dl.toNat < r.bytes.length → s.wrote = false → ∃ t, exec .cmdEncode s = .next t ∧
        forgetScratch t = forgetScratch (failedUnwritten s .capacity r.bytes.length))

/-- R149, R98: an admitted ENCODE whose ranges answer and whose capacity is at least 5 * SL + 48 completes with DONE and
no error, and RESULT0 words fit the capacity. -/
def Obligations.EncodeCompletesWithinTheSizeBound : Prop :=
  ∀ s : State, EncodeAdmitted s → NoBusErr s.params (wordSource s) → NoBusErr s.params (encodeDest s) →
    s.params.wf → 5 * s.sl.toNat + 48 ≤ s.dl.toNat →
    ∃ t, exec .cmdEncode s = .next t ∧ t.busy = false ∧ t.done = true ∧ t.err = s.err ∧
      4 * t.result0.toNat ≤ 5 * s.sl.toNat + 48 ∧ t.result1.toNat ≤ 4 * s.sl.toNat + 32

/-- R88, R90: the encoder's stages never raise INTERNAL, under either promotion scope and either short-end option; the
bound on the scan's iterations is never reached. -/
def Obligations.EncoderNeverRaisesInternal : Prop :=
  ∀ (scope : PromoteScope) (se : Bool) (src : List Word), ∃ r, encodeBuffer scope se src = .ok r

/-- R89, R35: the width array keeps its n + 256 entries, and no step lowers an entry of the source's values: each final
entry is at least the classified width. R81 to R87: the final array is the one that the promoter's rules make of the
classified widths and the sentinels, by pass 1 and then by the scan with its promotion steps, fills and short-end rule. -/
def Obligations.PromotedWidthsCoverClassifiedWidths : Prop :=
  ∀ (scope : PromoteScope) (se : Bool) (src : List Word) (r : Encoded), encodeBuffer scope se src = .ok r →
    r.widths.length = src.length + 256 ∧
    (∀ i v, src[i]? = some v → (classify v).bits ≤ r.widths.getD i 0) ∧
    ∃ ws, CoarselyAligned src.length (src.map (fun v => (classify v).bits) ++ List.replicate 256 0) ws ∧
      Promotes scope se src.length 0 ws r.pos r.widths

/-- R91, R92: the runs cover the source array in order without a gap, each at the width the promoter left at its positions,
neighbours differ in width, and the length of every run but the last is a multiple of its width's natural block size. -/
def Obligations.RunsAreWholeBlocksButTheLast : Prop :=
  ∀ (scope : PromoteScope) (se : Bool) (src : List Word) (r : Encoded), encodeBuffer scope se src = .ok r →
    ((r.runs.map Run.len).sum = src.length) ∧
    (∀ i x, r.runs[i]? = some x → x.start = ((r.runs.take i).map Run.len).sum ∧ 0 < x.len) ∧
    (∀ i x y, r.runs[i]? = some x → r.runs[i + 1]? = some y → x.width ≠ y.width) ∧
    (∀ x ∈ r.runs, ∀ i, x.start ≤ i → i < x.start + x.len → r.widths.getD i 0 = x.width.bits) ∧
    (∀ x ∈ r.runs.dropLast, x.len % x.width.blockInts = 0)

/-- R97: the payload length and the selector count from the runs. -/
def Obligations.PayloadAndSelectorSizes : Prop :=
  ∀ (scope : PromoteScope) (se : Bool) (src : List Word) (r : Encoded), encodeBuffer scope se src = .ok r →
    r.payload.length =
      (r.runs.map (fun x =>
        if x.width = .w0 then 0
        else if x.width = .w8 ∨ x.width = .w16 ∨ x.width = .w32 then x.len * (x.width.bits / 8)
        else (x.len + x.width.blockInts - 1) / x.width.blockInts * x.width.blockBytes)).sum ∧
    r.sels.length =
      (r.runs.map (fun x => ((x.len + x.width.blockInts - 1) / x.width.blockInts + 15) / 16)).sum

/-- R98: the size bounds of a compressed buffer: on K, on S, on P and T, on L, and L below 2^31 for an array MAX_N allows. -/
def Obligations.CompressedSizeBounds : Prop :=
  ∀ (scope : PromoteScope) (se : Bool) (src : List Word) (r : Encoded), encodeBuffer scope se src = .ok r →
    r.sels.length ≤ (src.length + 3) / 4 ∧ r.payload.length ≤ 4 * src.length + 32 ∧
    r.pad ≤ 6 ∧ (vbyteEnc r.trlVal).length ≤ 5 ∧
    r.bytes.length = r.payload.length + r.sels.length + r.pad + (vbyteEnc r.trlVal).length ∧
    r.bytes.length ≤ 4 * src.length + (src.length + 3) / 4 + 43 ∧ r.bytes.length ≤ 5 * src.length + 48 ∧
    (src.length ≤ 2 ^ 28 → r.bytes.length < 2 ^ 31)

/-- R140, R73: the padding is at most 6 bytes and the smallest for which the smallest self-consistent trailer length
aligns the total length to 4. -/
def Obligations.PaddingIsTheSmallestThatAligns : Prop :=
  ∀ S K : Nat, padLen S K ≤ 6 ∧ (S + K + padLen S K + trailerLen (K + padLen S K)) % 4 = 0 ∧
    (∀ P, P < padLen S K → (S + K + P + trailerLen (K + P)) % 4 ≠ 0) ∧
    (∀ P, vlen (K + P + trailerLen (K + P)) = trailerLen (K + P) ∧
      ∀ t, 1 ≤ t → t < trailerLen (K + P) → vlen (K + P + t) ≠ t)

/-- R73, R74, R140: the buffer is payload, selectors, 0 to 6 zero bytes and the trailer of V = K + P + T, its length is
S + V, a multiple of 4, and the trailer is vlen V bytes, 1 to 5. R93, R94, R95: run after run, the selectors are `nblk div
16` of count 16 and one of the blocks left, and the payload is the run's blocks in order, each of its source values, with 0
at a position past the end of the array. -/
def Obligations.CompressedBufferLayout : Prop :=
  ∀ (scope : PromoteScope) (se : Bool) (src : List Word) (r : Encoded), encodeBuffer scope se src = .ok r →
    r.bytes = r.payload ++ r.sels ++ List.replicate r.pad 0x00 ++ vbyteEnc r.trlVal ∧ r.pad ≤ 6 ∧
    (vbyteEnc r.trlVal).length = vlen r.trlVal ∧ 1 ≤ vlen r.trlVal ∧ vlen r.trlVal ≤ 5 ∧
    r.trlVal = r.sels.length + r.pad + vlen r.trlVal ∧ r.bytes.length = r.payload.length + r.trlVal ∧
    r.bytes.length % 4 = 0 ∧
    r.sels = r.runs.flatMap emittedSelectors ∧ r.payload = r.runs.flatMap (emittedPayload src)

/-! ## Blocks -/

/-- R69: every width has the type code, kind, units, N(w) and B(w) of its row of the table. R70: a packed block is B(w)
bytes, and the word of unit `h`, column `l` is bits [32h+31 : 32h] of the column's sum of masked values, each at its row's
place. -/
def Obligations.PackedBlockWords : Prop :=
  (∀ w : Width, ⟨w.bits, w.typeCode.toNat, w.kind, w.blockInts, w.blockBytes⟩ ∈ blockTable) ∧
  ∀ (w : Width) (units : Nat) (v : Nat → Nat) (r h l : Nat), w.kind = .packed units → h < units → l < 4 →
    (packBlock w v r).length = w.blockBytes ∧
    bytesLE (((packBlock w v r).drop (16 * h + 4 * l)).take 4) =
      ((List.range (w.blockInts / 4)).map (fun k => v (4 * k + l) % 2 ^ w.bits * 2 ^ (k * w.bits))).sum
        / 2 ^ (32 * h) % 2 ^ 32

/-- R71, R96: a direct block is the first `r` values, w/8 bytes each, little-endian and in order. -/
def Obligations.DirectBlockBytes : Prop :=
  ∀ (w : Width) (bytes : Nat) (v : Nat → Nat) (r j : Nat), w.kind = .direct bytes → j < r →
    8 * bytes = w.bits ∧ (packBlock w v r).length = r * bytes ∧
    bytesLE (((packBlock w v r).drop (j * bytes)).take bytes) = v j % 2 ^ w.bits

/-- R70, R71, R72: unpacking inverts packing: the value read back at position `j` of a block that stands in memory is
the masked value packed there. -/
def Obligations.BlockReadsBackWhatWasPacked : Prop :=
  ∀ (w : Width) (v : Nat → Nat) (m : Memory) (base r j : Nat), w ≠ .w0 → r ≤ w.blockInts → j < r →
    BytesAt m base (packBlock w v r) → blockValue m w base j = v j % 2 ^ w.bits

/-! ## DECODE and the selectors -/

/-- R150, R157, R48, R51, R52: DECODE's static checks in their order, each with its code and ERRINFO; the first that
fails ends the command with memory, the results and every other register unchanged. -/
def Obligations.DecodeStaticCheckOrder : Prop :=
  ∀ s : State, s.wrote = false →
    if s.sa.toNat % 4 ≠ 0 then exec .cmdDecode s = .next (failedUnwritten s .misaligned 1)
    else if s.da.toNat % 4 ≠ 0 then exec .cmdDecode s = .next (failedUnwritten s .misaligned 2)
    else if 2 ^ 32 < s.sa.toNat + 4 * s.sl.toNat then exec .cmdDecode s = .next (failedUnwritten s .addrRange 1)
    else if 2 ^ 32 < s.da.toNat + 4 * s.dl.toNat then exec .cmdDecode s = .next (failedUnwritten s .addrRange 2)
    else if 0 < s.sl.toNat ∧ 0 < s.dl.toNat ∧ s.sa.toNat < s.da.toNat + 4 * s.dl.toNat ∧
        s.da.toNat < s.sa.toNat + 4 * s.sl.toNat then
      exec .cmdDecode s = .next (failedUnwritten s .overlap 0)
    else DecodeAdmitted s

/-- R150, R142, R143, R38, R39, R40: an admitted DECODE whose buffer answers and ends in a trailer of `t` bytes with
T <= V <= L enters the selector loop at S = L - V with its cursors at their starts; with an output count of 0 it
completes there, with RESULT0 = 0 and RESULT1 = S. Memory is unchanged. -/
def Obligations.DecodeEntersTheSelectorLoop : Prop :=
  ∀ (s : State) (t : Nat), DecodeAdmitted s → NoBusErr s.params (wordSource s) →
    TrailerAt s.mem s.sa.toNat (4 * s.sl.toNat) t → t ≤ trailerValue s.mem s.sa.toNat (4 * s.sl.toNat) t →
    trailerValue s.mem s.sa.toNat (4 * s.sl.toNat) t ≤ 4 * s.sl.toNat →
    trailerValue s.mem s.sa.toNat (4 * s.sl.toNat) t < 2 ^ 32 →
    let V := trailerValue s.mem s.sa.toNat (4 * s.sl.toNat) t
    let u := { s with bufLen := 4 * s.sl.toNat, trlLen := t, trlVal := V, selStart := 4 * s.sl.toNat - V,
                      sc := 4 * s.sl.toNat - V, pp := 0, oc := 0 }
    (s.dl.toNat = 0 → exec .cmdDecode s = .next { u with
      phase := .idle, done := true, result0 := 0, result1 := BitVec.ofNat 32 (4 * s.sl.toNat - V) }) ∧
    (0 < s.dl.toNat → exec .cmdDecode s = .next { u with phase := .unpack })

/-- R141, R142, R150, R154: an admitted DECODE whose range answers ends with BAD_TRAILER and its sub-cause when its trailer
is bad: 2 when the last five bytes lack the terminator, 1 when a shorter range does (a range of no byte among them), 3 when
the value is 2^32 or more, 4 when the value is below the trailer's length, 5 when it is above the buffer's length. Memory
and the results are unchanged. -/
def Obligations.DecodeRejectsMisplacedSelectorStart : Prop :=
  ∀ s : State, DecodeAdmitted s → s.wrote = false → NoBusErr s.params (wordSource s) →
    (5 ≤ 4 * s.sl.toNat →
      (∀ i, 4 * s.sl.toNat - 5 ≤ i → i < 4 * s.sl.toNat → (Memory.read s.mem (s.sa.toNat + i)).toNat < 128) →
      exec .cmdDecode s = .next (failedUnwritten s .badTrailer 2)) ∧
    (4 * s.sl.toNat < 5 → (∀ i, i < 4 * s.sl.toNat → (Memory.read s.mem (s.sa.toNat + i)).toNat < 128) →
      exec .cmdDecode s = .next (failedUnwritten s .badTrailer 1)) ∧
    (∀ t, TrailerAt s.mem s.sa.toNat (4 * s.sl.toNat) t →
      (2 ^ 32 ≤ trailerValue s.mem s.sa.toNat (4 * s.sl.toNat) t →
        exec .cmdDecode s = .next (failedUnwritten s .badTrailer 3)) ∧
      (trailerValue s.mem s.sa.toNat (4 * s.sl.toNat) t < 2 ^ 32 →
        (trailerValue s.mem s.sa.toNat (4 * s.sl.toNat) t < t →
          exec .cmdDecode s = .next (failedUnwritten s .badTrailer 4)) ∧
        (t ≤ trailerValue s.mem s.sa.toNat (4 * s.sl.toNat) t →
          4 * s.sl.toNat < trailerValue s.mem s.sa.toNat (4 * s.sl.toNat) t →
          exec .cmdDecode s = .next (failedUnwritten s .badTrailer 5))))

/-- R123, R115, R116: `SEL w0` (constructor selW0) with any count completes: it writes the word 1 to its outputs and
consumes no payload. -/
def Obligations.ZeroWidthSelectorCompletes : Prop :=
  ∀ (count : Nat) (s : State), Memory.wf s.mem = true →
    s.da.toNat + 4 * (s.oc + selectorOutputs .w0 count s) ≤ 2 ^ 32 →
    NoBusErr s.params ⟨s.da.toNat + 4 * s.oc, s.da.toNat + 4 * (s.oc + selectorOutputs .w0 count s)⟩ →
    ∃ t, exec (.selW0 count) s = .next t ∧ SelectorDone .w0 count s t ∧
      ∀ i, i < min (count * 256) (s.dl.toNat - s.oc) → wordAt t.mem (s.da.toNat + 4 * (s.oc + i)) = 1

/-- R124 to R130, R132 to R134, R136, R115, R116, R119: a selector of a packed width (constructors selW1, selW2, selW3,
selW4, selW5, selW6, selW7, selW9, selW10, selW12, selW21) whose payload and outputs answer completes: its outputs are
the fields of its blocks, it consumes whole blocks, and nothing else changes. -/
def Obligations.PackedSelectorsComplete : Prop :=
  ∀ (w : Width) (units count : Nat) (s : State), w.kind = .packed units → SelectorRunnable w count s →
    ∃ t, exec (Instr.sel w count) s = .next t ∧ SelectorDone w count s t

/-- R131, R135, R137, R115, R116, R119: a selector of a direct width (constructors selW8, selW16, selW32) whose payload
and outputs answer completes: its outputs are the zero-extended stored values, it consumes the bytes of the values it
returns, and nothing else changes. -/
def Obligations.DirectSelectorsComplete : Prop :=
  ∀ (w : Width) (bytes count : Nat) (s : State), w.kind = .direct bytes → SelectorRunnable w count s →
    ∃ t, exec (Instr.sel w count) s = .next t ∧ SelectorDone w count s t ∧
      ∀ i, i < selectorOutputs w count s →
        wordAt t.mem (s.da.toNat + 4 * (s.oc + i)) = Memory.readLE s.mem (s.sa.toNat + s.pp + bytes * i) bytes

/-- R119, R154: a selector of width 1 or more with a block whose payload would pass the selector start ends DECODE with
PAYLOAD_OVERRUN and ERRINFO = pp. At the first block this comes before anything is read or written; at a later one, `pp` is
the cursor moved past the `k` whole blocks before it, and their outputs count as writes of the command: no byte outside the
destination range changes, and every byte inside it is unspecified (R155; free values, log 11). -/
def Obligations.PayloadOverrunEndsDecode : Prop :=
  ∀ (w : Width) (count : Nat) (s : State), w ≠ .w0 →
    (0 < count → s.oc < s.dl.toNat → s.selStart < s.pp + w.bytesFor (min w.blockInts (s.dl.toNat - s.oc)) →
      exec (Instr.sel w count) s = .next (raiseError s (decodeDest s) .payloadOverrun s.pp)) ∧
    (∀ k, 0 < k → k < count → s.oc + k * w.blockInts < s.dl.toNat → s.pp + k * w.blockBytes ≤ s.selStart →
      s.selStart < s.pp + k * w.blockBytes + w.bytesFor (min w.blockInts (s.dl.toNat - (s.oc + k * w.blockInts))) →
      s.sa.toNat + s.selStart ≤ 2 ^ 32 → s.da.toNat + 4 * s.dl.toNat ≤ 2 ^ 32 → Memory.wf s.mem = true →
      NoBusErr s.params ⟨s.sa.toNat + s.pp, s.sa.toNat + s.pp + k * w.blockBytes⟩ →
      NoBusErr s.params ⟨s.da.toNat + 4 * s.oc, s.da.toNat + 4 * (s.oc + k * w.blockInts)⟩ →
      ∃ t, exec (Instr.sel w count) s = .next t ∧
        t = { failedUnwritten s .payloadOverrun (s.pp + k * w.blockBytes) with
          mem := t.mem, wrote := true, pp := s.pp + k * w.blockBytes, oc := s.oc + k * w.blockInts } ∧
        (∀ a, (decodeDest s).mem a → Memory.read t.mem a = Config.freeByte s.freeCtr a) ∧
        ∀ a, ¬ (decodeDest s).mem a → Memory.read t.mem a = Memory.read s.mem a)

/-- R156: an engine access past no edge of the address space completes exactly when no byte of it answers with a bus
error; otherwise it raises BUS_ERROR with its lowest address, a read returns nothing and a write writes nothing. So ENCODE
(in its source reads and in its destination writes), VBYTE_DEC and DECODE (in the scan for the trailer) and every selector
(in its payload reads and its output writes) end with BUS_ERROR and the lowest address of the first of their accesses that
fails. Memory changes only inside the destination range, and not at all when no MemWrite came before. That a BUS_ERROR on
the command's first MemWrite leaves memory unchanged is the model's choice (log 32): R155 does not list it. -/
def Obligations.BusErrorsNameTheLowestAddress : Prop :=
  (∀ (s : State) (a n v : Nat), a + n ≤ 2 ^ 32 →
    ((∀ i, i < n → busErrAt s.params (a + i) = false) →
      memRead s a n = .ok (Memory.readLE s.mem a n) ∧
      memWrite s a n v = .ok { s with mem := Memory.writeLE s.mem a n v, wrote := true }) ∧
    ((∃ i, i < n ∧ busErrAt s.params (a + i) = true) →
      memRead s a n = .error (.raise s .busError a) ∧ memWrite s a n v = .error (.raise s .busError a))) ∧
  (∀ (s : State) (k : Nat) (x : Access), EncodeAdmitted s → s.wrote = false →
    (FirstBusError s.params (sourceReads s) k x →
      exec .cmdEncode s = .next (failedUnwritten s .busError x.addr)) ∧
    (∀ r : Encoded, NoBusErr s.params (wordSource s) →
      encodeBuffer s.params.promoteScope s.se (sourceWords s) = .ok r → r.bytes.length ≤ s.dl.toNat →
      FirstBusError s.params (bufferWrites s r.bytes.length) k x →
      ∃ t, exec .cmdEncode s = .next t ∧
        forgetScratch t =
          forgetScratch { failedUnwritten s .busError x.addr with mem := t.mem, wrote := decide (0 < k) } ∧
        (k = 0 → t.mem = s.mem) ∧
        ∀ a, ¬ (encodeDest s).mem a → Memory.read t.mem a = Memory.read s.mem a)) ∧
  (∀ (s : State) (k : Nat), s.wrote = false →
    (s.sa.toNat + s.sl.toNat ≤ 2 ^ 32 → ScanBusError s s.sa.toNat s.sl.toNat k →
      exec .cmdVbyteDec s = .next (failedUnwritten s .busError (s.sa.toNat + (s.sl.toNat - 1 - k)))) ∧
    (DecodeAdmitted s → ScanBusError s s.sa.toNat (4 * s.sl.toNat) k →
      exec .cmdDecode s = .next (failedUnwritten s .busError (s.sa.toNat + (4 * s.sl.toNat - 1 - k))))) ∧
  (∀ (w : Width) (count c : Nat) (s : State) (k : Nat) (x : Access), c ≤ count →
    (w ≠ .w0 → s.pp + selectorBytes w c s ≤ s.selStart) →
    (∀ y ∈ selectorAccesses w c s, y.addr + y.size ≤ 2 ^ 32) → FirstBusError s.params (selectorAccesses w c s) k x →
    ∃ t, exec (Instr.sel w count) s = .next t ∧
      t = { failedUnwritten s .busError x.addr with
        mem := t.mem, wrote := s.wrote || ((selectorAccesses w c s).take k).any Access.write, pp := t.pp, oc := t.oc } ∧
      (t.wrote = false → t.mem = s.mem) ∧
      ∀ a, ¬ (decodeDest s).mem a → Memory.read t.mem a = Memory.read s.mem a)

/-- R155, R154, R54: an error completion sets ERRINFO, ERRCODE to the error's number in R154's table, and ERR, ends BUSY, and
leaves RESULT0, RESULT1, CTRL, the operand registers and CMD; memory changes only inside the destination range, and not at
all when the command has performed no MemWrite; when it has, every byte of the range is unspecified (free values, log 11).
That a write that got a bus error counts as none performed is the model's choice (log 32). -/
def Obligations.ErrorCompletionKeepsTheRest : Prop :=
  ∀ (s : State) (dest : Range) (e : ErrCode) (info : Nat),
    (raiseError s dest e info).errinfo = BitVec.ofNat 32 info ∧ (raiseError s dest e info).errcode = e.code ∧
    (e, (raiseError s dest e info).errcode.toNat) ∈ errorTable ∧
    (raiseError s dest e info).err = true ∧ (raiseError s dest e info).busy = false ∧
    raiseError s dest e info =
      { failedUnwritten s e info with mem := (raiseError s dest e info).mem } ∧
    (s.wrote = false → (raiseError s dest e info).mem = s.mem) ∧
    (s.wrote = true → Memory.wf s.mem = true → ∀ a, dest.mem a → a < 2 ^ 32 →
      Memory.read (raiseError s dest e info).mem a = Config.freeByte s.freeCtr a) ∧
    (∀ a, ¬ dest.mem a → Memory.read (raiseError s dest e info).mem a = Memory.read s.mem a)

/-! ## The whole machine -/

/-- The state after reset meets the invariant; its parameters and its memory are the model's choices (log 4, log 6). -/
def Obligations.ResetMeetsTheInvariant : Prop := Inv State.reset

/-- The invariant is kept by every step, from every state that meets it: memory stays in its canonical form, DONE and ERR
are never both 1 and neither is 1 while BUSY (R24), ERRINFO is 0 while BUSY (R175), ERRCODE is a code of R154 exactly while
ERR is 1, CMD is the running command's word (R25), and the decoder's cursors stay in their bounds (R38, R39, R117, R119). -/
def Obligations.EveryStepKeepsTheInvariant : Prop :=
  ∀ s t : State, Inv s → step s = .next t → Inv t

/-- R49, R53, R54: no step from a state that meets the invariant reaches past the address space: the model's fault never
happens. -/
def Obligations.NoStepFaults : Prop :=
  ∀ (s : State) (f : Fault), Inv s → step s ≠ .fault f

/-- R54: on the engine's turn no byte outside the running command's destination range changes, on success or on error. -/
def Obligations.EngineWritesOnlyItsDestination : Prop :=
  ∀ (s t : State) (a : Nat), Inv s → EngineMoves s → s.phase ≠ .breached → step s = .next t →
    ¬ (runningDest s).mem a → Memory.read t.mem a = Memory.read s.mem a

/-- R53: what a command or a selector does depends on no byte of memory outside its source range: from two memories that
agree there, the registers and the engine end alike, and every byte ends alike unless neither run changed it. -/
def Obligations.EngineReadsOnlyItsSource : Prop :=
  ∀ (i : Instr) (s : State) (m : Memory), Memory.wf s.mem = true → Memory.wf m = true → s.selStart ≤ 4 * s.sl.toNat →
    (∀ a, (if i = .cmdVbyteDec then byteSource s else wordSource s).mem a → Memory.read m a = Memory.read s.mem a) →
    mapNext forgetMemory (exec i { s with mem := m }) = mapNext forgetMemory (exec i s) ∧
    ∀ t u : State, exec i { s with mem := m } = .next t → exec i s = .next u →
      ∀ a, Memory.read t.mem a = Memory.read u.mem a ∨
        (Memory.read t.mem a = Memory.read m a ∧ Memory.read u.mem a = Memory.read s.mem a)

/-- R33, R174: a host write to an operand register, or an ordinary write to CTRL, does not affect the running command:
running the engine's instruction before or after it gives the same state. -/
def Obligations.HostWritesDoNotAffectTheRunningCommand : Prop :=
  ∀ (i : Instr) (s : State) (r : Reg) (v : Word), (r ∈ operandRegs ∨ (r = .ctrl ∧ v.getLsbD 31 = false)) →
    exec i (writeReg s r v) = mapNext (fun t => writeReg t r v) (exec i s)

/-- R42, R177: no step depends on what an earlier command left in the scratch and the cursors: states that agree on
everything else step to states that agree on everything else. -/
def Obligations.ScratchIsNeverObserved : Prop :=
  ∀ s t : State, forgetScratch s = forgetScratch t →
    mapNext forgetScratch (step s) = mapNext forgetScratch (step t)

/-- R178: with no further host action, a command that runs completes: after at most DL + 1 steps BUSY is 0. The
number of steps is the model's (log 2). -/
def Obligations.EveryCommandCompletes : Prop :=
  ∀ s : State, Inv s → s.host = [] →
    ∃ k t, k ≤ s.dl.toNat + 1 ∧ Host.Core.run Sys2Proof.core k s = .next t ∧ State.busy t = false

/-- No step changes the parameters of R7: they are the platform's, and the model's State carries them (log 4). -/
def Obligations.ParametersNeverChange : Prop :=
  ∀ s t : State, step s = .next t → t.params = s.params

/-- R2, R120, R144: a DECODE of the buffer ENCODE makes of a source array, with the array's length as its output count,
completes with RESULT0 = RESULT1 = S, and its output words are the source array. -/
def Obligations.DecodeOfEncodeIsTheSource : Prop :=
  ∀ (scope : PromoteScope) (se : Bool) (src : List Word) (r : Encoded) (s : State),
    encodeBuffer scope se src = .ok r → Inv s → s.host = [] → s.phase = .started → s.op = 2 → DecodeAdmitted s →
    4 * s.sl.toNat = r.bytes.length → s.dl.toNat = src.length → BytesAt s.mem s.sa.toNat r.bytes →
    NoBusErr s.params (wordSource s) → NoBusErr s.params (decodeDest s) →
    ∃ k, ∃ t : State, Host.Core.run Sys2Proof.core k s = .next t ∧ t.busy = false ∧ t.done = true ∧ t.err = false ∧
      t.result0 = BitVec.ofNat 32 r.payload.length ∧ t.result1 = BitVec.ofNat 32 r.payload.length ∧
      (∀ i v, src[i]? = some v → wordAt t.mem (s.da.toNat + 4 * i) = v.toNat) ∧
      (∀ a, ¬ (decodeDest s).mem a → Memory.read t.mem a = Memory.read s.mem a)
end

