-- ==== Sys2Proof/Laws/Memory.lean ====
section
/-! SUPPORT. The laws of host memory: what a read gives after a write, what a write leaves alone, and that every memory
operation keeps the canonical form. -/

namespace Sys2Proof.Machine

/-! ### One byte -/

@[simp] theorem read_nil (a : Nat) : Memory.read [] a = Memory.unlisted := rfl

theorem read_cons (c : Host.Cell) (m : Memory) (a : Nat) :
    Memory.read (c :: m) a = if c.1 = a then c.2 else Memory.read m a := rfl

theorem wfFrom_cons {lo : Nat} {c : Host.Cell} {m : Memory} :
    Memory.wfFrom lo (c :: m) = true ↔
      lo ≤ c.1 ∧ c.1 < 2 ^ 32 ∧ c.2 ≠ Memory.unlisted ∧ Memory.wfFrom (c.1 + 1) m = true := by
  simp [Memory.wfFrom, and_assoc]

theorem wfFrom_mono {lo lo' : Nat} (h : lo' ≤ lo) : ∀ {m : Memory}, Memory.wfFrom lo m = true → Memory.wfFrom lo' m = true
  | [], _ => rfl
  | _ :: _, hm => by
    obtain ⟨h1, h2⟩ := wfFrom_cons.mp hm
    exact wfFrom_cons.mpr ⟨le_trans h h1, h2⟩

/-- An address below every listed one reads as unlisted. -/
theorem read_below {lo a : Nat} (ha : a < lo) : ∀ {m : Memory}, Memory.wfFrom lo m = true → Memory.read m a = Memory.unlisted
  | [], _ => rfl
  | c :: m, hm => by
    obtain ⟨h1, _, _, h4⟩ := wfFrom_cons.mp hm
    rw [read_cons, if_neg (by omega)]
    exact read_below (by omega) h4

/-- A write leaves every other address alone, in any memory. -/
theorem read_write_ne {a b : Nat} (v : Byte) (h : b ≠ a) : ∀ m : Memory, Memory.read (Memory.write m a v) b = Memory.read m b
  | [] => by
    unfold Memory.write
    split
    · rfl
    · simp [read_cons, h.symm]
  | c :: m => by
    have ih := read_write_ne v h m
    unfold Memory.write
    split
    · split
      · rfl
      · simp [read_cons, h.symm]
    · split
      · rename_i hac
        split
        · simp [read_cons, hac ▸ h.symm]
        · simp [read_cons, h.symm, hac ▸ h.symm]
      · simp [read_cons, ih]

theorem read_write_self_from {a : Nat} (v : Byte) :
    ∀ {m : Memory} {lo : Nat}, Memory.wfFrom lo m = true → Memory.read (Memory.write m a v) a = v
  | [], _, _ => by
    unfold Memory.write
    split
    · rename_i h; simp [h]
    · simp [read_cons]
  | c :: m, lo, hm => by
    obtain ⟨_, _, _, h4⟩ := wfFrom_cons.mp hm
    unfold Memory.write
    split
    · rename_i hlt
      split
      · rename_i h
        rw [read_cons, if_neg (by omega), read_below (by omega) h4, h]
      · simp [read_cons]
    · split
      · rename_i hac
        split
        · rename_i h
          rw [read_below (by omega) h4, h]
        · simp [read_cons]
      · rw [read_cons, if_neg (by omega)]
        exact read_write_self_from v h4

/-- A read after a write to the same address gives the value written. -/
theorem read_write_self {m : Memory} (hm : Memory.wf m = true) (a : Nat) (v : Byte) :
    Memory.read (Memory.write m a v) a = v :=
  read_write_self_from v hm

theorem write_wfFrom {a : Nat} (v : Byte) (ha : a < 2 ^ 32) :
    ∀ {m : Memory} {lo : Nat}, lo ≤ a → Memory.wfFrom lo m = true → Memory.wfFrom lo (Memory.write m a v) = true
  | [], lo, hlo, _ => by
    unfold Memory.write
    split
    · rfl
    · rename_i h
      exact wfFrom_cons.mpr ⟨hlo, ha, h, rfl⟩
  | c :: m, lo, hlo, hm => by
    obtain ⟨h1, h2, h3, h4⟩ := wfFrom_cons.mp hm
    unfold Memory.write
    split
    · rename_i hlt
      split
      · exact hm
      · rename_i h
        exact wfFrom_cons.mpr ⟨hlo, ha, h, wfFrom_cons.mpr ⟨by simpa using hlt, h2, h3, h4⟩⟩
    · split
      · rename_i hac
        split
        · exact wfFrom_mono (by omega) h4
        · rename_i h
          exact wfFrom_cons.mpr ⟨hlo, ha, h, hac ▸ h4⟩
      · exact wfFrom_cons.mpr ⟨h1, h2, h3, write_wfFrom v ha (by omega) h4⟩

/-- A write inside the address space keeps the canonical form. -/
theorem write_wf {m : Memory} (hm : Memory.wf m = true) {a : Nat} (ha : a < 2 ^ 32) (v : Byte) :
    Memory.wf (Memory.write m a v) = true :=
  write_wfFrom v ha (Nat.zero_le a) hm

/-! ### Little-endian words -/

theorem readLE_lt (m : Memory) : ∀ (n a : Nat), Memory.readLE m a n < 256 ^ n
  | 0, _ => by simp [Memory.readLE]
  | n + 1, a => by
    have h1 := (Memory.read m a).isLt
    have h2 := readLE_lt m n (a + 1)
    simp only [Memory.readLE, pow_succ]
    omega

/-- A word depends on its own bytes only. -/
theorem readLE_congr {m m' : Memory} :
    ∀ {n a : Nat}, (∀ b, a ≤ b → b < a + n → Memory.read m b = Memory.read m' b) →
      Memory.readLE m a n = Memory.readLE m' a n
  | 0, _, _ => rfl
  | n + 1, a, h => by
    simp only [Memory.readLE]
    rw [h a (le_refl a) (by omega), readLE_congr (fun b hb1 hb2 => h b (by omega) (by omega))]

theorem writeLE_wf : ∀ {n a : Nat} {m : Memory} (v : Nat), Memory.wf m = true → a + n ≤ 2 ^ 32 →
    Memory.wf (Memory.writeLE m a n v) = true
  | 0, _, _, _, hm, _ => hm
  | n + 1, a, m, v, hm, ha => by
    simp only [Memory.writeLE]
    exact writeLE_wf _ (write_wf hm (by omega) _) (by omega)

/-- A wide write leaves every byte outside it alone, in any memory. -/
theorem read_writeLE_outside {b : Nat} : ∀ {n a : Nat} (m : Memory) (v : Nat), (b < a ∨ a + n ≤ b) →
    Memory.read (Memory.writeLE m a n v) b = Memory.read m b
  | 0, _, _, _, _ => rfl
  | n + 1, a, m, v, h => by
    simp only [Memory.writeLE]
    rw [read_writeLE_outside _ _ (by omega), read_write_ne _ (by omega)]

/-- The bytes a wide write stores, least significant first. -/
theorem read_writeLE_inside : ∀ {n a : Nat} {m : Memory} (v i : Nat), Memory.wf m = true → a + n ≤ 2 ^ 32 → i < n →
    Memory.read (Memory.writeLE m a n v) (a + i) = BitVec.ofNat 8 (v / 256 ^ i)
  | 0, _, _, _, _, _, _, h => absurd h (Nat.not_lt_zero _)
  | n + 1, a, m, v, i, hm, ha, hi => by
    simp only [Memory.writeLE]
    cases i with
    | zero =>
      rw [read_writeLE_outside _ _ (by omega), Nat.add_zero, read_write_self hm]
      simp
    | succ i =>
      have := read_writeLE_inside (v / 256) i (write_wf hm (show a < 2 ^ 32 by omega) (BitVec.ofNat 8 v))
        (show a + 1 + n ≤ 2 ^ 32 by omega) (by omega)
      rw [show a + (i + 1) = a + 1 + i by omega, this, Nat.div_div_eq_div_mul, pow_succ, Nat.mul_comm]

/-- A word read back where it was written is the word, cut to its width. -/
theorem readLE_writeLE : ∀ {n a : Nat} {m : Memory} (v : Nat), Memory.wf m = true → a + n ≤ 2 ^ 32 →
    Memory.readLE (Memory.writeLE m a n v) a n = v % 256 ^ n
  | 0, _, _, v, _, _ => by simp [Memory.readLE, Nat.mod_one]
  | n + 1, a, m, v, hm, ha => by
    simp only [Memory.writeLE, Memory.readLE]
    rw [read_writeLE_outside _ _ (by omega), read_write_self hm,
      readLE_writeLE _ (write_wf hm (show a < 2 ^ 32 by omega) _) (by omega)]
    have h := Nat.mod_mul (x := v) (a := 256) (b := 256 ^ n)
    rw [pow_succ, Nat.mul_comm (256 ^ n), h]
    simp

/-! ### Unspecified ranges -/

theorem scramble_wf (ctr : Nat) : ∀ {len a : Nat} {m : Memory}, Memory.wf m = true → a + len ≤ 2 ^ 32 →
    Memory.wf (Memory.scramble m ctr a len) = true
  | 0, _, _, hm, _ => hm
  | len + 1, a, m, hm, ha => by
    simp only [Memory.scramble]
    exact scramble_wf ctr (write_wf hm (by omega) _) (by omega)

theorem read_scramble_outside (ctr : Nat) {b : Nat} : ∀ {len a : Nat} (m : Memory), (b < a ∨ a + len ≤ b) →
    Memory.read (Memory.scramble m ctr a len) b = Memory.read m b
  | 0, _, _, _ => rfl
  | len + 1, a, m, h => by
    simp only [Memory.scramble]
    rw [read_scramble_outside ctr _ (by omega), read_write_ne _ (by omega)]

/-- An unspecified range keeps the canonical form. -/
theorem scrambleRange_wf {m : Memory} (hm : Memory.wf m = true) (ctr : Nat) (r : Range) :
    Memory.wf (Memory.scrambleRange m ctr r) = true := by
  unfold Memory.scrambleRange
  by_cases h : r.lo ≤ 2 ^ 32
  · exact scramble_wf ctr hm (by omega)
  · rw [show min r.hi (2 ^ 32) - r.lo = 0 by omega]
    exact hm

/-- An unspecified range leaves every byte outside it alone. -/
theorem read_scrambleRange_outside (m : Memory) (ctr : Nat) {r : Range} {a : Nat} (h : ¬ r.mem a) :
    Memory.read (Memory.scrambleRange m ctr r) a = Memory.read m a := by
  unfold Memory.scrambleRange
  refine read_scramble_outside ctr m ?_
  simp only [Range.mem, not_and, not_lt] at h
  omega

theorem read_scramble_inside (ctr : Nat) {b : Nat} : ∀ {len a : Nat} {m : Memory}, Memory.wf m = true → a + len ≤ 2 ^ 32 →
    a ≤ b → b < a + len → Memory.read (Memory.scramble m ctr a len) b = Config.freeByte ctr b
  | 0, _, _, _, _, h1, h2 => absurd h2 (by omega)
  | len + 1, a, m, hm, ha, h1, h2 => by
    simp only [Memory.scramble]
    by_cases hab : b = a
    · subst hab
      rw [read_scramble_outside ctr _ (by omega), read_write_self hm]
    · exact read_scramble_inside ctr (write_wf hm (by omega) _) (by omega) (by omega) (by omega)

/-- Every byte of an unspecified range is a free value. -/
theorem read_scrambleRange_inside {m : Memory} (hm : Memory.wf m = true) (ctr : Nat) {r : Range} {a : Nat} (h : r.mem a)
    (ha : a < 2 ^ 32) : Memory.read (Memory.scrambleRange m ctr r) a = Config.freeByte ctr a := by
  obtain ⟨h1, h2⟩ := h
  exact read_scramble_inside ctr hm (by omega) h1 (by omega)

/-! ### Byte lists -/

@[simp] theorem leBytes_length : ∀ n v : Nat, (leBytes n v).length = n
  | 0, _ => rfl
  | n + 1, v => by simp [leBytes, leBytes_length n]

end Sys2Proof.Machine
end

