-- ==== Sys2Proof/Laws/State.lean ====
section
/-! SUPPORT. The small lemmas of the state updates: one per field and update, so that no proof unfolds an update. -/

namespace Sys2Proof.Machine

/-! ### `complete` -/

@[simp] theorem complete_ie (s : State) (r0 r1 : Nat) : (complete s r0 r1).ie = s.ie := rfl
@[simp] theorem complete_shortEnd (s : State) (r0 r1 : Nat) : (complete s r0 r1).shortEnd = s.shortEnd := rfl
@[simp] theorem complete_done (s : State) (r0 r1 : Nat) : (complete s r0 r1).done = true := rfl
@[simp] theorem complete_err (s : State) (r0 r1 : Nat) : (complete s r0 r1).err = s.err := rfl
@[simp] theorem complete_cmdLost (s : State) (r0 r1 : Nat) : (complete s r0 r1).cmdLost = s.cmdLost := rfl
@[simp] theorem complete_errcode (s : State) (r0 r1 : Nat) : (complete s r0 r1).errcode = s.errcode := rfl
@[simp] theorem complete_cmd (s : State) (r0 r1 : Nat) : (complete s r0 r1).cmd = s.cmd := rfl
@[simp] theorem complete_srcAddr (s : State) (r0 r1 : Nat) : (complete s r0 r1).srcAddr = s.srcAddr := rfl
@[simp] theorem complete_srcLen (s : State) (r0 r1 : Nat) : (complete s r0 r1).srcLen = s.srcLen := rfl
@[simp] theorem complete_dstAddr (s : State) (r0 r1 : Nat) : (complete s r0 r1).dstAddr = s.dstAddr := rfl
@[simp] theorem complete_dstLen (s : State) (r0 r1 : Nat) : (complete s r0 r1).dstLen = s.dstLen := rfl
@[simp] theorem complete_arg (s : State) (r0 r1 : Nat) : (complete s r0 r1).arg = s.arg := rfl
@[simp] theorem complete_result0 (s : State) (r0 r1 : Nat) : (complete s r0 r1).result0 = BitVec.ofNat 32 r0 := rfl
@[simp] theorem complete_result1 (s : State) (r0 r1 : Nat) : (complete s r0 r1).result1 = BitVec.ofNat 32 r1 := rfl
@[simp] theorem complete_errinfo (s : State) (r0 r1 : Nat) : (complete s r0 r1).errinfo = s.errinfo := rfl
@[simp] theorem complete_phase (s : State) (r0 r1 : Nat) : (complete s r0 r1).phase = .idle := rfl
@[simp] theorem complete_op (s : State) (r0 r1 : Nat) : (complete s r0 r1).op = s.op := rfl
@[simp] theorem complete_sa (s : State) (r0 r1 : Nat) : (complete s r0 r1).sa = s.sa := rfl
@[simp] theorem complete_sl (s : State) (r0 r1 : Nat) : (complete s r0 r1).sl = s.sl := rfl
@[simp] theorem complete_da (s : State) (r0 r1 : Nat) : (complete s r0 r1).da = s.da := rfl
@[simp] theorem complete_dl (s : State) (r0 r1 : Nat) : (complete s r0 r1).dl = s.dl := rfl
@[simp] theorem complete_ar (s : State) (r0 r1 : Nat) : (complete s r0 r1).ar = s.ar := rfl
@[simp] theorem complete_se (s : State) (r0 r1 : Nat) : (complete s r0 r1).se = s.se := rfl
@[simp] theorem complete_wrote (s : State) (r0 r1 : Nat) : (complete s r0 r1).wrote = s.wrote := rfl
@[simp] theorem complete_widths (s : State) (r0 r1 : Nat) : (complete s r0 r1).widths = s.widths := rfl
@[simp] theorem complete_selbuf (s : State) (r0 r1 : Nat) : (complete s r0 r1).selbuf = s.selbuf := rfl
@[simp] theorem complete_p (s : State) (r0 r1 : Nat) : (complete s r0 r1).p = s.p := rfl
@[simp] theorem complete_rs (s : State) (r0 r1 : Nat) : (complete s r0 r1).rs = s.rs := rfl
@[simp] theorem complete_rl (s : State) (r0 r1 : Nat) : (complete s r0 r1).rl = s.rl := rfl
@[simp] theorem complete_b (s : State) (r0 r1 : Nat) : (complete s r0 r1).b = s.b := rfl
@[simp] theorem complete_ob (s : State) (r0 r1 : Nat) : (complete s r0 r1).ob = s.ob := rfl
@[simp] theorem complete_bufLen (s : State) (r0 r1 : Nat) : (complete s r0 r1).bufLen = s.bufLen := rfl
@[simp] theorem complete_trlLen (s : State) (r0 r1 : Nat) : (complete s r0 r1).trlLen = s.trlLen := rfl
@[simp] theorem complete_trlVal (s : State) (r0 r1 : Nat) : (complete s r0 r1).trlVal = s.trlVal := rfl
@[simp] theorem complete_selStart (s : State) (r0 r1 : Nat) : (complete s r0 r1).selStart = s.selStart := rfl
@[simp] theorem complete_sc (s : State) (r0 r1 : Nat) : (complete s r0 r1).sc = s.sc := rfl
@[simp] theorem complete_pp (s : State) (r0 r1 : Nat) : (complete s r0 r1).pp = s.pp := rfl
@[simp] theorem complete_oc (s : State) (r0 r1 : Nat) : (complete s r0 r1).oc = s.oc := rfl
@[simp] theorem complete_mem (s : State) (r0 r1 : Nat) : (complete s r0 r1).mem = s.mem := rfl
@[simp] theorem complete_params (s : State) (r0 r1 : Nat) : (complete s r0 r1).params = s.params := rfl
@[simp] theorem complete_host (s : State) (r0 r1 : Nat) : (complete s r0 r1).host = s.host := rfl
@[simp] theorem complete_unseen (s : State) (r0 r1 : Nat) : (complete s r0 r1).unseen = s.unseen := rfl
@[simp] theorem complete_rdata (s : State) (r0 r1 : Nat) : (complete s r0 r1).rdata = s.rdata := rfl
@[simp] theorem complete_freeCtr (s : State) (r0 r1 : Nat) : (complete s r0 r1).freeCtr = s.freeCtr := rfl

/-! ### `raiseError` -/

@[simp] theorem raiseError_ie (s : State) (d : Range) (e : ErrCode) (info : Nat) : (raiseError s d e info).ie = s.ie := rfl
@[simp] theorem raiseError_shortEnd (s : State) (d : Range) (e : ErrCode) (info : Nat) : (raiseError s d e info).shortEnd = s.shortEnd := rfl
@[simp] theorem raiseError_done (s : State) (d : Range) (e : ErrCode) (info : Nat) : (raiseError s d e info).done = s.done := rfl
@[simp] theorem raiseError_err (s : State) (d : Range) (e : ErrCode) (info : Nat) : (raiseError s d e info).err = true := rfl
@[simp] theorem raiseError_cmdLost (s : State) (d : Range) (e : ErrCode) (info : Nat) : (raiseError s d e info).cmdLost = s.cmdLost := rfl
@[simp] theorem raiseError_errcode (s : State) (d : Range) (e : ErrCode) (info : Nat) : (raiseError s d e info).errcode = e.code := rfl
@[simp] theorem raiseError_cmd (s : State) (d : Range) (e : ErrCode) (info : Nat) : (raiseError s d e info).cmd = s.cmd := rfl
@[simp] theorem raiseError_srcAddr (s : State) (d : Range) (e : ErrCode) (info : Nat) : (raiseError s d e info).srcAddr = s.srcAddr := rfl
@[simp] theorem raiseError_srcLen (s : State) (d : Range) (e : ErrCode) (info : Nat) : (raiseError s d e info).srcLen = s.srcLen := rfl
@[simp] theorem raiseError_dstAddr (s : State) (d : Range) (e : ErrCode) (info : Nat) : (raiseError s d e info).dstAddr = s.dstAddr := rfl
@[simp] theorem raiseError_dstLen (s : State) (d : Range) (e : ErrCode) (info : Nat) : (raiseError s d e info).dstLen = s.dstLen := rfl
@[simp] theorem raiseError_arg (s : State) (d : Range) (e : ErrCode) (info : Nat) : (raiseError s d e info).arg = s.arg := rfl
@[simp] theorem raiseError_result0 (s : State) (d : Range) (e : ErrCode) (info : Nat) : (raiseError s d e info).result0 = s.result0 := rfl
@[simp] theorem raiseError_result1 (s : State) (d : Range) (e : ErrCode) (info : Nat) : (raiseError s d e info).result1 = s.result1 := rfl
@[simp] theorem raiseError_errinfo (s : State) (d : Range) (e : ErrCode) (info : Nat) : (raiseError s d e info).errinfo = BitVec.ofNat 32 info := rfl
@[simp] theorem raiseError_phase (s : State) (d : Range) (e : ErrCode) (info : Nat) : (raiseError s d e info).phase = .idle := rfl
@[simp] theorem raiseError_op (s : State) (d : Range) (e : ErrCode) (info : Nat) : (raiseError s d e info).op = s.op := rfl
@[simp] theorem raiseError_sa (s : State) (d : Range) (e : ErrCode) (info : Nat) : (raiseError s d e info).sa = s.sa := rfl
@[simp] theorem raiseError_sl (s : State) (d : Range) (e : ErrCode) (info : Nat) : (raiseError s d e info).sl = s.sl := rfl
@[simp] theorem raiseError_da (s : State) (d : Range) (e : ErrCode) (info : Nat) : (raiseError s d e info).da = s.da := rfl
@[simp] theorem raiseError_dl (s : State) (d : Range) (e : ErrCode) (info : Nat) : (raiseError s d e info).dl = s.dl := rfl
@[simp] theorem raiseError_ar (s : State) (d : Range) (e : ErrCode) (info : Nat) : (raiseError s d e info).ar = s.ar := rfl
@[simp] theorem raiseError_se (s : State) (d : Range) (e : ErrCode) (info : Nat) : (raiseError s d e info).se = s.se := rfl
@[simp] theorem raiseError_wrote (s : State) (d : Range) (e : ErrCode) (info : Nat) : (raiseError s d e info).wrote = s.wrote := rfl
@[simp] theorem raiseError_widths (s : State) (d : Range) (e : ErrCode) (info : Nat) : (raiseError s d e info).widths = s.widths := rfl
@[simp] theorem raiseError_selbuf (s : State) (d : Range) (e : ErrCode) (info : Nat) : (raiseError s d e info).selbuf = s.selbuf := rfl
@[simp] theorem raiseError_p (s : State) (d : Range) (e : ErrCode) (info : Nat) : (raiseError s d e info).p = s.p := rfl
@[simp] theorem raiseError_rs (s : State) (d : Range) (e : ErrCode) (info : Nat) : (raiseError s d e info).rs = s.rs := rfl
@[simp] theorem raiseError_rl (s : State) (d : Range) (e : ErrCode) (info : Nat) : (raiseError s d e info).rl = s.rl := rfl
@[simp] theorem raiseError_b (s : State) (d : Range) (e : ErrCode) (info : Nat) : (raiseError s d e info).b = s.b := rfl
@[simp] theorem raiseError_ob (s : State) (d : Range) (e : ErrCode) (info : Nat) : (raiseError s d e info).ob = s.ob := rfl
@[simp] theorem raiseError_bufLen (s : State) (d : Range) (e : ErrCode) (info : Nat) : (raiseError s d e info).bufLen = s.bufLen := rfl
@[simp] theorem raiseError_trlLen (s : State) (d : Range) (e : ErrCode) (info : Nat) : (raiseError s d e info).trlLen = s.trlLen := rfl
@[simp] theorem raiseError_trlVal (s : State) (d : Range) (e : ErrCode) (info : Nat) : (raiseError s d e info).trlVal = s.trlVal := rfl
@[simp] theorem raiseError_selStart (s : State) (d : Range) (e : ErrCode) (info : Nat) : (raiseError s d e info).selStart = s.selStart := rfl
@[simp] theorem raiseError_sc (s : State) (d : Range) (e : ErrCode) (info : Nat) : (raiseError s d e info).sc = s.sc := rfl
@[simp] theorem raiseError_pp (s : State) (d : Range) (e : ErrCode) (info : Nat) : (raiseError s d e info).pp = s.pp := rfl
@[simp] theorem raiseError_oc (s : State) (d : Range) (e : ErrCode) (info : Nat) : (raiseError s d e info).oc = s.oc := rfl
@[simp] theorem raiseError_mem (s : State) (d : Range) (e : ErrCode) (info : Nat) : (raiseError s d e info).mem = (if s.wrote then Memory.scrambleRange s.mem s.freeCtr d else s.mem) := rfl
@[simp] theorem raiseError_params (s : State) (d : Range) (e : ErrCode) (info : Nat) : (raiseError s d e info).params = s.params := rfl
@[simp] theorem raiseError_host (s : State) (d : Range) (e : ErrCode) (info : Nat) : (raiseError s d e info).host = s.host := rfl
@[simp] theorem raiseError_unseen (s : State) (d : Range) (e : ErrCode) (info : Nat) : (raiseError s d e info).unseen = s.unseen := rfl
@[simp] theorem raiseError_rdata (s : State) (d : Range) (e : ErrCode) (info : Nat) : (raiseError s d e info).rdata = s.rdata := rfl
@[simp] theorem raiseError_freeCtr (s : State) (d : Range) (e : ErrCode) (info : Nat) : (raiseError s d e info).freeCtr = s.freeCtr + 1 := rfl

/-! ### `startCommand` -/

@[simp] theorem startCommand_ie (s : State) (cw : Word) : (startCommand s cw).ie = s.ie := rfl
@[simp] theorem startCommand_shortEnd (s : State) (cw : Word) : (startCommand s cw).shortEnd = s.shortEnd := rfl
@[simp] theorem startCommand_done (s : State) (cw : Word) : (startCommand s cw).done = false := rfl
@[simp] theorem startCommand_err (s : State) (cw : Word) : (startCommand s cw).err = false := rfl
@[simp] theorem startCommand_cmdLost (s : State) (cw : Word) : (startCommand s cw).cmdLost = s.cmdLost := rfl
@[simp] theorem startCommand_errcode (s : State) (cw : Word) : (startCommand s cw).errcode = 0 := rfl
@[simp] theorem startCommand_cmd (s : State) (cw : Word) : (startCommand s cw).cmd = cw := rfl
@[simp] theorem startCommand_srcAddr (s : State) (cw : Word) : (startCommand s cw).srcAddr = s.srcAddr := rfl
@[simp] theorem startCommand_srcLen (s : State) (cw : Word) : (startCommand s cw).srcLen = s.srcLen := rfl
@[simp] theorem startCommand_dstAddr (s : State) (cw : Word) : (startCommand s cw).dstAddr = s.dstAddr := rfl
@[simp] theorem startCommand_dstLen (s : State) (cw : Word) : (startCommand s cw).dstLen = s.dstLen := rfl
@[simp] theorem startCommand_arg (s : State) (cw : Word) : (startCommand s cw).arg = s.arg := rfl
@[simp] theorem startCommand_result0 (s : State) (cw : Word) : (startCommand s cw).result0 = s.result0 := rfl
@[simp] theorem startCommand_result1 (s : State) (cw : Word) : (startCommand s cw).result1 = s.result1 := rfl
@[simp] theorem startCommand_errinfo (s : State) (cw : Word) : (startCommand s cw).errinfo = 0 := rfl
@[simp] theorem startCommand_phase (s : State) (cw : Word) : (startCommand s cw).phase = .started := rfl
@[simp] theorem startCommand_op (s : State) (cw : Word) : (startCommand s cw).op = cw := rfl
@[simp] theorem startCommand_sa (s : State) (cw : Word) : (startCommand s cw).sa = s.srcAddr := rfl
@[simp] theorem startCommand_sl (s : State) (cw : Word) : (startCommand s cw).sl = s.srcLen := rfl
@[simp] theorem startCommand_da (s : State) (cw : Word) : (startCommand s cw).da = s.dstAddr := rfl
@[simp] theorem startCommand_dl (s : State) (cw : Word) : (startCommand s cw).dl = s.dstLen := rfl
@[simp] theorem startCommand_ar (s : State) (cw : Word) : (startCommand s cw).ar = s.arg := rfl
@[simp] theorem startCommand_se (s : State) (cw : Word) : (startCommand s cw).se = s.shortEnd := rfl
@[simp] theorem startCommand_wrote (s : State) (cw : Word) : (startCommand s cw).wrote = false := rfl
@[simp] theorem startCommand_widths (s : State) (cw : Word) : (startCommand s cw).widths = s.widths := rfl
@[simp] theorem startCommand_selbuf (s : State) (cw : Word) : (startCommand s cw).selbuf = s.selbuf := rfl
@[simp] theorem startCommand_p (s : State) (cw : Word) : (startCommand s cw).p = s.p := rfl
@[simp] theorem startCommand_rs (s : State) (cw : Word) : (startCommand s cw).rs = s.rs := rfl
@[simp] theorem startCommand_rl (s : State) (cw : Word) : (startCommand s cw).rl = s.rl := rfl
@[simp] theorem startCommand_b (s : State) (cw : Word) : (startCommand s cw).b = s.b := rfl
@[simp] theorem startCommand_ob (s : State) (cw : Word) : (startCommand s cw).ob = s.ob := rfl
@[simp] theorem startCommand_bufLen (s : State) (cw : Word) : (startCommand s cw).bufLen = s.bufLen := rfl
@[simp] theorem startCommand_trlLen (s : State) (cw : Word) : (startCommand s cw).trlLen = s.trlLen := rfl
@[simp] theorem startCommand_trlVal (s : State) (cw : Word) : (startCommand s cw).trlVal = s.trlVal := rfl
@[simp] theorem startCommand_selStart (s : State) (cw : Word) : (startCommand s cw).selStart = s.selStart := rfl
@[simp] theorem startCommand_sc (s : State) (cw : Word) : (startCommand s cw).sc = s.sc := rfl
@[simp] theorem startCommand_pp (s : State) (cw : Word) : (startCommand s cw).pp = s.pp := rfl
@[simp] theorem startCommand_oc (s : State) (cw : Word) : (startCommand s cw).oc = s.oc := rfl
@[simp] theorem startCommand_mem (s : State) (cw : Word) : (startCommand s cw).mem = s.mem := rfl
@[simp] theorem startCommand_params (s : State) (cw : Word) : (startCommand s cw).params = s.params := rfl
@[simp] theorem startCommand_host (s : State) (cw : Word) : (startCommand s cw).host = s.host := rfl
@[simp] theorem startCommand_unseen (s : State) (cw : Word) : (startCommand s cw).unseen = true := rfl
@[simp] theorem startCommand_rdata (s : State) (cw : Word) : (startCommand s cw).rdata = s.rdata := rfl
@[simp] theorem startCommand_freeCtr (s : State) (cw : Word) : (startCommand s cw).freeCtr = s.freeCtr := rfl

/-! ### `setCtrl` -/

@[simp] theorem setCtrl_ie (s : State) (v : Word) : (setCtrl s v).ie = v.getLsbD 0 := rfl
@[simp] theorem setCtrl_shortEnd (s : State) (v : Word) : (setCtrl s v).shortEnd = v.getLsbD 1 := rfl
@[simp] theorem setCtrl_done (s : State) (v : Word) : (setCtrl s v).done = s.done := rfl
@[simp] theorem setCtrl_err (s : State) (v : Word) : (setCtrl s v).err = s.err := rfl
@[simp] theorem setCtrl_cmdLost (s : State) (v : Word) : (setCtrl s v).cmdLost = s.cmdLost := rfl
@[simp] theorem setCtrl_errcode (s : State) (v : Word) : (setCtrl s v).errcode = s.errcode := rfl
@[simp] theorem setCtrl_cmd (s : State) (v : Word) : (setCtrl s v).cmd = s.cmd := rfl
@[simp] theorem setCtrl_srcAddr (s : State) (v : Word) : (setCtrl s v).srcAddr = s.srcAddr := rfl
@[simp] theorem setCtrl_srcLen (s : State) (v : Word) : (setCtrl s v).srcLen = s.srcLen := rfl
@[simp] theorem setCtrl_dstAddr (s : State) (v : Word) : (setCtrl s v).dstAddr = s.dstAddr := rfl
@[simp] theorem setCtrl_dstLen (s : State) (v : Word) : (setCtrl s v).dstLen = s.dstLen := rfl
@[simp] theorem setCtrl_arg (s : State) (v : Word) : (setCtrl s v).arg = s.arg := rfl
@[simp] theorem setCtrl_result0 (s : State) (v : Word) : (setCtrl s v).result0 = s.result0 := rfl
@[simp] theorem setCtrl_result1 (s : State) (v : Word) : (setCtrl s v).result1 = s.result1 := rfl
@[simp] theorem setCtrl_errinfo (s : State) (v : Word) : (setCtrl s v).errinfo = s.errinfo := rfl
@[simp] theorem setCtrl_phase (s : State) (v : Word) : (setCtrl s v).phase = s.phase := rfl
@[simp] theorem setCtrl_op (s : State) (v : Word) : (setCtrl s v).op = s.op := rfl
@[simp] theorem setCtrl_sa (s : State) (v : Word) : (setCtrl s v).sa = s.sa := rfl
@[simp] theorem setCtrl_sl (s : State) (v : Word) : (setCtrl s v).sl = s.sl := rfl
@[simp] theorem setCtrl_da (s : State) (v : Word) : (setCtrl s v).da = s.da := rfl
@[simp] theorem setCtrl_dl (s : State) (v : Word) : (setCtrl s v).dl = s.dl := rfl
@[simp] theorem setCtrl_ar (s : State) (v : Word) : (setCtrl s v).ar = s.ar := rfl
@[simp] theorem setCtrl_se (s : State) (v : Word) : (setCtrl s v).se = s.se := rfl
@[simp] theorem setCtrl_wrote (s : State) (v : Word) : (setCtrl s v).wrote = s.wrote := rfl
@[simp] theorem setCtrl_widths (s : State) (v : Word) : (setCtrl s v).widths = s.widths := rfl
@[simp] theorem setCtrl_selbuf (s : State) (v : Word) : (setCtrl s v).selbuf = s.selbuf := rfl
@[simp] theorem setCtrl_p (s : State) (v : Word) : (setCtrl s v).p = s.p := rfl
@[simp] theorem setCtrl_rs (s : State) (v : Word) : (setCtrl s v).rs = s.rs := rfl
@[simp] theorem setCtrl_rl (s : State) (v : Word) : (setCtrl s v).rl = s.rl := rfl
@[simp] theorem setCtrl_b (s : State) (v : Word) : (setCtrl s v).b = s.b := rfl
@[simp] theorem setCtrl_ob (s : State) (v : Word) : (setCtrl s v).ob = s.ob := rfl
@[simp] theorem setCtrl_bufLen (s : State) (v : Word) : (setCtrl s v).bufLen = s.bufLen := rfl
@[simp] theorem setCtrl_trlLen (s : State) (v : Word) : (setCtrl s v).trlLen = s.trlLen := rfl
@[simp] theorem setCtrl_trlVal (s : State) (v : Word) : (setCtrl s v).trlVal = s.trlVal := rfl
@[simp] theorem setCtrl_selStart (s : State) (v : Word) : (setCtrl s v).selStart = s.selStart := rfl
@[simp] theorem setCtrl_sc (s : State) (v : Word) : (setCtrl s v).sc = s.sc := rfl
@[simp] theorem setCtrl_pp (s : State) (v : Word) : (setCtrl s v).pp = s.pp := rfl
@[simp] theorem setCtrl_oc (s : State) (v : Word) : (setCtrl s v).oc = s.oc := rfl
@[simp] theorem setCtrl_mem (s : State) (v : Word) : (setCtrl s v).mem = s.mem := rfl
@[simp] theorem setCtrl_params (s : State) (v : Word) : (setCtrl s v).params = s.params := rfl
@[simp] theorem setCtrl_host (s : State) (v : Word) : (setCtrl s v).host = s.host := rfl
@[simp] theorem setCtrl_unseen (s : State) (v : Word) : (setCtrl s v).unseen = s.unseen := rfl
@[simp] theorem setCtrl_rdata (s : State) (v : Word) : (setCtrl s v).rdata = s.rdata := rfl
@[simp] theorem setCtrl_freeCtr (s : State) (v : Word) : (setCtrl s v).freeCtr = s.freeCtr := rfl

/-! ### `acknowledge` -/

@[simp] theorem acknowledge_ie (s : State) (v : Word) : (acknowledge s v).ie = s.ie := rfl
@[simp] theorem acknowledge_shortEnd (s : State) (v : Word) : (acknowledge s v).shortEnd = s.shortEnd := rfl
@[simp] theorem acknowledge_done (s : State) (v : Word) : (acknowledge s v).done = (s.done && !v.getLsbD 1) := rfl
@[simp] theorem acknowledge_err (s : State) (v : Word) : (acknowledge s v).err = (s.err && !v.getLsbD 2) := rfl
@[simp] theorem acknowledge_cmdLost (s : State) (v : Word) : (acknowledge s v).cmdLost = (s.cmdLost && !v.getLsbD 3) := rfl
@[simp] theorem acknowledge_errcode (s : State) (v : Word) : (acknowledge s v).errcode = (if v.getLsbD 2 then 0 else s.errcode) := rfl
@[simp] theorem acknowledge_cmd (s : State) (v : Word) : (acknowledge s v).cmd = s.cmd := rfl
@[simp] theorem acknowledge_srcAddr (s : State) (v : Word) : (acknowledge s v).srcAddr = s.srcAddr := rfl
@[simp] theorem acknowledge_srcLen (s : State) (v : Word) : (acknowledge s v).srcLen = s.srcLen := rfl
@[simp] theorem acknowledge_dstAddr (s : State) (v : Word) : (acknowledge s v).dstAddr = s.dstAddr := rfl
@[simp] theorem acknowledge_dstLen (s : State) (v : Word) : (acknowledge s v).dstLen = s.dstLen := rfl
@[simp] theorem acknowledge_arg (s : State) (v : Word) : (acknowledge s v).arg = s.arg := rfl
@[simp] theorem acknowledge_result0 (s : State) (v : Word) : (acknowledge s v).result0 = s.result0 := rfl
@[simp] theorem acknowledge_result1 (s : State) (v : Word) : (acknowledge s v).result1 = s.result1 := rfl
@[simp] theorem acknowledge_errinfo (s : State) (v : Word) : (acknowledge s v).errinfo = s.errinfo := rfl
@[simp] theorem acknowledge_phase (s : State) (v : Word) : (acknowledge s v).phase = s.phase := rfl
@[simp] theorem acknowledge_op (s : State) (v : Word) : (acknowledge s v).op = s.op := rfl
@[simp] theorem acknowledge_sa (s : State) (v : Word) : (acknowledge s v).sa = s.sa := rfl
@[simp] theorem acknowledge_sl (s : State) (v : Word) : (acknowledge s v).sl = s.sl := rfl
@[simp] theorem acknowledge_da (s : State) (v : Word) : (acknowledge s v).da = s.da := rfl
@[simp] theorem acknowledge_dl (s : State) (v : Word) : (acknowledge s v).dl = s.dl := rfl
@[simp] theorem acknowledge_ar (s : State) (v : Word) : (acknowledge s v).ar = s.ar := rfl
@[simp] theorem acknowledge_se (s : State) (v : Word) : (acknowledge s v).se = s.se := rfl
@[simp] theorem acknowledge_wrote (s : State) (v : Word) : (acknowledge s v).wrote = s.wrote := rfl
@[simp] theorem acknowledge_widths (s : State) (v : Word) : (acknowledge s v).widths = s.widths := rfl
@[simp] theorem acknowledge_selbuf (s : State) (v : Word) : (acknowledge s v).selbuf = s.selbuf := rfl
@[simp] theorem acknowledge_p (s : State) (v : Word) : (acknowledge s v).p = s.p := rfl
@[simp] theorem acknowledge_rs (s : State) (v : Word) : (acknowledge s v).rs = s.rs := rfl
@[simp] theorem acknowledge_rl (s : State) (v : Word) : (acknowledge s v).rl = s.rl := rfl
@[simp] theorem acknowledge_b (s : State) (v : Word) : (acknowledge s v).b = s.b := rfl
@[simp] theorem acknowledge_ob (s : State) (v : Word) : (acknowledge s v).ob = s.ob := rfl
@[simp] theorem acknowledge_bufLen (s : State) (v : Word) : (acknowledge s v).bufLen = s.bufLen := rfl
@[simp] theorem acknowledge_trlLen (s : State) (v : Word) : (acknowledge s v).trlLen = s.trlLen := rfl
@[simp] theorem acknowledge_trlVal (s : State) (v : Word) : (acknowledge s v).trlVal = s.trlVal := rfl
@[simp] theorem acknowledge_selStart (s : State) (v : Word) : (acknowledge s v).selStart = s.selStart := rfl
@[simp] theorem acknowledge_sc (s : State) (v : Word) : (acknowledge s v).sc = s.sc := rfl
@[simp] theorem acknowledge_pp (s : State) (v : Word) : (acknowledge s v).pp = s.pp := rfl
@[simp] theorem acknowledge_oc (s : State) (v : Word) : (acknowledge s v).oc = s.oc := rfl
@[simp] theorem acknowledge_mem (s : State) (v : Word) : (acknowledge s v).mem = s.mem := rfl
@[simp] theorem acknowledge_params (s : State) (v : Word) : (acknowledge s v).params = s.params := rfl
@[simp] theorem acknowledge_host (s : State) (v : Word) : (acknowledge s v).host = s.host := rfl
@[simp] theorem acknowledge_unseen (s : State) (v : Word) : (acknowledge s v).unseen = s.unseen := rfl
@[simp] theorem acknowledge_rdata (s : State) (v : Word) : (acknowledge s v).rdata = s.rdata := rfl
@[simp] theorem acknowledge_freeCtr (s : State) (v : Word) : (acknowledge s v).freeCtr = s.freeCtr := rfl

/-! ### `withEncodeScratch` -/

@[simp] theorem withEncodeScratch_ie (s : State) (r : Encoded) : (withEncodeScratch s r).ie = s.ie := rfl
@[simp] theorem withEncodeScratch_shortEnd (s : State) (r : Encoded) : (withEncodeScratch s r).shortEnd = s.shortEnd := rfl
@[simp] theorem withEncodeScratch_done (s : State) (r : Encoded) : (withEncodeScratch s r).done = s.done := rfl
@[simp] theorem withEncodeScratch_err (s : State) (r : Encoded) : (withEncodeScratch s r).err = s.err := rfl
@[simp] theorem withEncodeScratch_cmdLost (s : State) (r : Encoded) : (withEncodeScratch s r).cmdLost = s.cmdLost := rfl
@[simp] theorem withEncodeScratch_errcode (s : State) (r : Encoded) : (withEncodeScratch s r).errcode = s.errcode := rfl
@[simp] theorem withEncodeScratch_cmd (s : State) (r : Encoded) : (withEncodeScratch s r).cmd = s.cmd := rfl
@[simp] theorem withEncodeScratch_srcAddr (s : State) (r : Encoded) : (withEncodeScratch s r).srcAddr = s.srcAddr := rfl
@[simp] theorem withEncodeScratch_srcLen (s : State) (r : Encoded) : (withEncodeScratch s r).srcLen = s.srcLen := rfl
@[simp] theorem withEncodeScratch_dstAddr (s : State) (r : Encoded) : (withEncodeScratch s r).dstAddr = s.dstAddr := rfl
@[simp] theorem withEncodeScratch_dstLen (s : State) (r : Encoded) : (withEncodeScratch s r).dstLen = s.dstLen := rfl
@[simp] theorem withEncodeScratch_arg (s : State) (r : Encoded) : (withEncodeScratch s r).arg = s.arg := rfl
@[simp] theorem withEncodeScratch_result0 (s : State) (r : Encoded) : (withEncodeScratch s r).result0 = s.result0 := rfl
@[simp] theorem withEncodeScratch_result1 (s : State) (r : Encoded) : (withEncodeScratch s r).result1 = s.result1 := rfl
@[simp] theorem withEncodeScratch_errinfo (s : State) (r : Encoded) : (withEncodeScratch s r).errinfo = s.errinfo := rfl
@[simp] theorem withEncodeScratch_phase (s : State) (r : Encoded) : (withEncodeScratch s r).phase = s.phase := rfl
@[simp] theorem withEncodeScratch_op (s : State) (r : Encoded) : (withEncodeScratch s r).op = s.op := rfl
@[simp] theorem withEncodeScratch_sa (s : State) (r : Encoded) : (withEncodeScratch s r).sa = s.sa := rfl
@[simp] theorem withEncodeScratch_sl (s : State) (r : Encoded) : (withEncodeScratch s r).sl = s.sl := rfl
@[simp] theorem withEncodeScratch_da (s : State) (r : Encoded) : (withEncodeScratch s r).da = s.da := rfl
@[simp] theorem withEncodeScratch_dl (s : State) (r : Encoded) : (withEncodeScratch s r).dl = s.dl := rfl
@[simp] theorem withEncodeScratch_ar (s : State) (r : Encoded) : (withEncodeScratch s r).ar = s.ar := rfl
@[simp] theorem withEncodeScratch_se (s : State) (r : Encoded) : (withEncodeScratch s r).se = s.se := rfl
@[simp] theorem withEncodeScratch_wrote (s : State) (r : Encoded) : (withEncodeScratch s r).wrote = s.wrote := rfl
@[simp] theorem withEncodeScratch_widths (s : State) (r : Encoded) : (withEncodeScratch s r).widths = r.widths := rfl
@[simp] theorem withEncodeScratch_selbuf (s : State) (r : Encoded) : (withEncodeScratch s r).selbuf = r.sels := rfl
@[simp] theorem withEncodeScratch_p (s : State) (r : Encoded) : (withEncodeScratch s r).p = r.pos := rfl
@[simp] theorem withEncodeScratch_ob (s : State) (r : Encoded) : (withEncodeScratch s r).ob = r.payload.length := rfl
@[simp] theorem withEncodeScratch_bufLen (s : State) (r : Encoded) : (withEncodeScratch s r).bufLen = s.bufLen := rfl
@[simp] theorem withEncodeScratch_trlLen (s : State) (r : Encoded) : (withEncodeScratch s r).trlLen = s.trlLen := rfl
@[simp] theorem withEncodeScratch_trlVal (s : State) (r : Encoded) : (withEncodeScratch s r).trlVal = s.trlVal := rfl
@[simp] theorem withEncodeScratch_selStart (s : State) (r : Encoded) : (withEncodeScratch s r).selStart = s.selStart := rfl
@[simp] theorem withEncodeScratch_sc (s : State) (r : Encoded) : (withEncodeScratch s r).sc = s.sc := rfl
@[simp] theorem withEncodeScratch_pp (s : State) (r : Encoded) : (withEncodeScratch s r).pp = s.pp := rfl
@[simp] theorem withEncodeScratch_oc (s : State) (r : Encoded) : (withEncodeScratch s r).oc = s.oc := rfl
@[simp] theorem withEncodeScratch_mem (s : State) (r : Encoded) : (withEncodeScratch s r).mem = s.mem := rfl
@[simp] theorem withEncodeScratch_params (s : State) (r : Encoded) : (withEncodeScratch s r).params = s.params := rfl
@[simp] theorem withEncodeScratch_host (s : State) (r : Encoded) : (withEncodeScratch s r).host = s.host := rfl
@[simp] theorem withEncodeScratch_unseen (s : State) (r : Encoded) : (withEncodeScratch s r).unseen = s.unseen := rfl
@[simp] theorem withEncodeScratch_rdata (s : State) (r : Encoded) : (withEncodeScratch s r).rdata = s.rdata := rfl
@[simp] theorem withEncodeScratch_freeCtr (s : State) (r : Encoded) : (withEncodeScratch s r).freeCtr = s.freeCtr := rfl

/-! ### `enterUnpack` -/

@[simp] theorem enterUnpack_ie (s : State) (v t : Nat) : (enterUnpack s v t).ie = s.ie := rfl
@[simp] theorem enterUnpack_shortEnd (s : State) (v t : Nat) : (enterUnpack s v t).shortEnd = s.shortEnd := rfl
@[simp] theorem enterUnpack_done (s : State) (v t : Nat) : (enterUnpack s v t).done = s.done := rfl
@[simp] theorem enterUnpack_err (s : State) (v t : Nat) : (enterUnpack s v t).err = s.err := rfl
@[simp] theorem enterUnpack_cmdLost (s : State) (v t : Nat) : (enterUnpack s v t).cmdLost = s.cmdLost := rfl
@[simp] theorem enterUnpack_errcode (s : State) (v t : Nat) : (enterUnpack s v t).errcode = s.errcode := rfl
@[simp] theorem enterUnpack_cmd (s : State) (v t : Nat) : (enterUnpack s v t).cmd = s.cmd := rfl
@[simp] theorem enterUnpack_srcAddr (s : State) (v t : Nat) : (enterUnpack s v t).srcAddr = s.srcAddr := rfl
@[simp] theorem enterUnpack_srcLen (s : State) (v t : Nat) : (enterUnpack s v t).srcLen = s.srcLen := rfl
@[simp] theorem enterUnpack_dstAddr (s : State) (v t : Nat) : (enterUnpack s v t).dstAddr = s.dstAddr := rfl
@[simp] theorem enterUnpack_dstLen (s : State) (v t : Nat) : (enterUnpack s v t).dstLen = s.dstLen := rfl
@[simp] theorem enterUnpack_arg (s : State) (v t : Nat) : (enterUnpack s v t).arg = s.arg := rfl
@[simp] theorem enterUnpack_result0 (s : State) (v t : Nat) : (enterUnpack s v t).result0 = s.result0 := rfl
@[simp] theorem enterUnpack_result1 (s : State) (v t : Nat) : (enterUnpack s v t).result1 = s.result1 := rfl
@[simp] theorem enterUnpack_errinfo (s : State) (v t : Nat) : (enterUnpack s v t).errinfo = s.errinfo := rfl
@[simp] theorem enterUnpack_phase (s : State) (v t : Nat) : (enterUnpack s v t).phase = .unpack := rfl
@[simp] theorem enterUnpack_op (s : State) (v t : Nat) : (enterUnpack s v t).op = s.op := rfl
@[simp] theorem enterUnpack_sa (s : State) (v t : Nat) : (enterUnpack s v t).sa = s.sa := rfl
@[simp] theorem enterUnpack_sl (s : State) (v t : Nat) : (enterUnpack s v t).sl = s.sl := rfl
@[simp] theorem enterUnpack_da (s : State) (v t : Nat) : (enterUnpack s v t).da = s.da := rfl
@[simp] theorem enterUnpack_dl (s : State) (v t : Nat) : (enterUnpack s v t).dl = s.dl := rfl
@[simp] theorem enterUnpack_ar (s : State) (v t : Nat) : (enterUnpack s v t).ar = s.ar := rfl
@[simp] theorem enterUnpack_se (s : State) (v t : Nat) : (enterUnpack s v t).se = s.se := rfl
@[simp] theorem enterUnpack_wrote (s : State) (v t : Nat) : (enterUnpack s v t).wrote = s.wrote := rfl
@[simp] theorem enterUnpack_widths (s : State) (v t : Nat) : (enterUnpack s v t).widths = s.widths := rfl
@[simp] theorem enterUnpack_selbuf (s : State) (v t : Nat) : (enterUnpack s v t).selbuf = s.selbuf := rfl
@[simp] theorem enterUnpack_p (s : State) (v t : Nat) : (enterUnpack s v t).p = s.p := rfl
@[simp] theorem enterUnpack_rs (s : State) (v t : Nat) : (enterUnpack s v t).rs = s.rs := rfl
@[simp] theorem enterUnpack_rl (s : State) (v t : Nat) : (enterUnpack s v t).rl = s.rl := rfl
@[simp] theorem enterUnpack_b (s : State) (v t : Nat) : (enterUnpack s v t).b = s.b := rfl
@[simp] theorem enterUnpack_ob (s : State) (v t : Nat) : (enterUnpack s v t).ob = s.ob := rfl
@[simp] theorem enterUnpack_bufLen (s : State) (v t : Nat) : (enterUnpack s v t).bufLen = 4 * s.sl.toNat := rfl
@[simp] theorem enterUnpack_trlLen (s : State) (v t : Nat) : (enterUnpack s v t).trlLen = t := rfl
@[simp] theorem enterUnpack_trlVal (s : State) (v t : Nat) : (enterUnpack s v t).trlVal = v := rfl
@[simp] theorem enterUnpack_selStart (s : State) (v t : Nat) : (enterUnpack s v t).selStart = 4 * s.sl.toNat - v := rfl
@[simp] theorem enterUnpack_sc (s : State) (v t : Nat) : (enterUnpack s v t).sc = 4 * s.sl.toNat - v := rfl
@[simp] theorem enterUnpack_pp (s : State) (v t : Nat) : (enterUnpack s v t).pp = 0 := rfl
@[simp] theorem enterUnpack_oc (s : State) (v t : Nat) : (enterUnpack s v t).oc = 0 := rfl
@[simp] theorem enterUnpack_mem (s : State) (v t : Nat) : (enterUnpack s v t).mem = s.mem := rfl
@[simp] theorem enterUnpack_params (s : State) (v t : Nat) : (enterUnpack s v t).params = s.params := rfl
@[simp] theorem enterUnpack_host (s : State) (v t : Nat) : (enterUnpack s v t).host = s.host := rfl
@[simp] theorem enterUnpack_unseen (s : State) (v t : Nat) : (enterUnpack s v t).unseen = s.unseen := rfl
@[simp] theorem enterUnpack_rdata (s : State) (v t : Nat) : (enterUnpack s v t).rdata = s.rdata := rfl
@[simp] theorem enterUnpack_freeCtr (s : State) (v t : Nat) : (enterUnpack s v t).freeCtr = s.freeCtr := rfl

/-! ### `breach` -/

@[simp] theorem breach_ie (s : State) : (breach s).ie = s.ie := rfl
@[simp] theorem breach_shortEnd (s : State) : (breach s).shortEnd = s.shortEnd := rfl
@[simp] theorem breach_done (s : State) : (breach s).done = s.done := rfl
@[simp] theorem breach_err (s : State) : (breach s).err = s.err := rfl
@[simp] theorem breach_cmdLost (s : State) : (breach s).cmdLost = s.cmdLost := rfl
@[simp] theorem breach_errcode (s : State) : (breach s).errcode = s.errcode := rfl
@[simp] theorem breach_cmd (s : State) : (breach s).cmd = s.cmd := rfl
@[simp] theorem breach_srcAddr (s : State) : (breach s).srcAddr = s.srcAddr := rfl
@[simp] theorem breach_srcLen (s : State) : (breach s).srcLen = s.srcLen := rfl
@[simp] theorem breach_dstAddr (s : State) : (breach s).dstAddr = s.dstAddr := rfl
@[simp] theorem breach_dstLen (s : State) : (breach s).dstLen = s.dstLen := rfl
@[simp] theorem breach_arg (s : State) : (breach s).arg = s.arg := rfl
@[simp] theorem breach_result0 (s : State) : (breach s).result0 = s.result0 := rfl
@[simp] theorem breach_result1 (s : State) : (breach s).result1 = s.result1 := rfl
@[simp] theorem breach_errinfo (s : State) : (breach s).errinfo = s.errinfo := rfl
@[simp] theorem breach_phase (s : State) : (breach s).phase = .breached := rfl
@[simp] theorem breach_op (s : State) : (breach s).op = s.op := rfl
@[simp] theorem breach_sa (s : State) : (breach s).sa = s.sa := rfl
@[simp] theorem breach_sl (s : State) : (breach s).sl = s.sl := rfl
@[simp] theorem breach_da (s : State) : (breach s).da = s.da := rfl
@[simp] theorem breach_dl (s : State) : (breach s).dl = s.dl := rfl
@[simp] theorem breach_ar (s : State) : (breach s).ar = s.ar := rfl
@[simp] theorem breach_se (s : State) : (breach s).se = s.se := rfl
@[simp] theorem breach_wrote (s : State) : (breach s).wrote = true := rfl
@[simp] theorem breach_widths (s : State) : (breach s).widths = s.widths := rfl
@[simp] theorem breach_selbuf (s : State) : (breach s).selbuf = s.selbuf := rfl
@[simp] theorem breach_p (s : State) : (breach s).p = s.p := rfl
@[simp] theorem breach_rs (s : State) : (breach s).rs = s.rs := rfl
@[simp] theorem breach_rl (s : State) : (breach s).rl = s.rl := rfl
@[simp] theorem breach_b (s : State) : (breach s).b = s.b := rfl
@[simp] theorem breach_ob (s : State) : (breach s).ob = s.ob := rfl
@[simp] theorem breach_bufLen (s : State) : (breach s).bufLen = s.bufLen := rfl
@[simp] theorem breach_trlLen (s : State) : (breach s).trlLen = s.trlLen := rfl
@[simp] theorem breach_trlVal (s : State) : (breach s).trlVal = s.trlVal := rfl
@[simp] theorem breach_selStart (s : State) : (breach s).selStart = s.selStart := rfl
@[simp] theorem breach_sc (s : State) : (breach s).sc = s.sc := rfl
@[simp] theorem breach_pp (s : State) : (breach s).pp = s.pp := rfl
@[simp] theorem breach_oc (s : State) : (breach s).oc = s.oc := rfl
@[simp] theorem breach_mem (s : State) : (breach s).mem = breachedMemory s := rfl
@[simp] theorem breach_params (s : State) : (breach s).params = s.params := rfl
@[simp] theorem breach_host (s : State) : (breach s).host = s.host := rfl
@[simp] theorem breach_unseen (s : State) : (breach s).unseen = s.unseen := rfl
@[simp] theorem breach_rdata (s : State) : (breach s).rdata = s.rdata := rfl
@[simp] theorem breach_freeCtr (s : State) : (breach s).freeCtr = s.freeCtr + 1 := rfl

/-! ### `lateBreach` -/

@[simp] theorem lateBreach_ie (s : State) : (lateBreach s).ie = s.ie := rfl
@[simp] theorem lateBreach_shortEnd (s : State) : (lateBreach s).shortEnd = s.shortEnd := rfl
@[simp] theorem lateBreach_cmdLost (s : State) : (lateBreach s).cmdLost = s.cmdLost := rfl
@[simp] theorem lateBreach_cmd (s : State) : (lateBreach s).cmd = s.cmd := rfl
@[simp] theorem lateBreach_srcAddr (s : State) : (lateBreach s).srcAddr = s.srcAddr := rfl
@[simp] theorem lateBreach_srcLen (s : State) : (lateBreach s).srcLen = s.srcLen := rfl
@[simp] theorem lateBreach_dstAddr (s : State) : (lateBreach s).dstAddr = s.dstAddr := rfl
@[simp] theorem lateBreach_dstLen (s : State) : (lateBreach s).dstLen = s.dstLen := rfl
@[simp] theorem lateBreach_arg (s : State) : (lateBreach s).arg = s.arg := rfl
@[simp] theorem lateBreach_op (s : State) : (lateBreach s).op = s.op := rfl
@[simp] theorem lateBreach_sa (s : State) : (lateBreach s).sa = s.sa := rfl
@[simp] theorem lateBreach_sl (s : State) : (lateBreach s).sl = s.sl := rfl
@[simp] theorem lateBreach_da (s : State) : (lateBreach s).da = s.da := rfl
@[simp] theorem lateBreach_dl (s : State) : (lateBreach s).dl = s.dl := rfl
@[simp] theorem lateBreach_ar (s : State) : (lateBreach s).ar = s.ar := rfl
@[simp] theorem lateBreach_se (s : State) : (lateBreach s).se = s.se := rfl
@[simp] theorem lateBreach_widths (s : State) : (lateBreach s).widths = s.widths := rfl
@[simp] theorem lateBreach_selbuf (s : State) : (lateBreach s).selbuf = s.selbuf := rfl
@[simp] theorem lateBreach_p (s : State) : (lateBreach s).p = s.p := rfl
@[simp] theorem lateBreach_rs (s : State) : (lateBreach s).rs = s.rs := rfl
@[simp] theorem lateBreach_rl (s : State) : (lateBreach s).rl = s.rl := rfl
@[simp] theorem lateBreach_b (s : State) : (lateBreach s).b = s.b := rfl
@[simp] theorem lateBreach_ob (s : State) : (lateBreach s).ob = s.ob := rfl
@[simp] theorem lateBreach_bufLen (s : State) : (lateBreach s).bufLen = s.bufLen := rfl
@[simp] theorem lateBreach_trlLen (s : State) : (lateBreach s).trlLen = s.trlLen := rfl
@[simp] theorem lateBreach_trlVal (s : State) : (lateBreach s).trlVal = s.trlVal := rfl
@[simp] theorem lateBreach_selStart (s : State) : (lateBreach s).selStart = s.selStart := rfl
@[simp] theorem lateBreach_sc (s : State) : (lateBreach s).sc = s.sc := rfl
@[simp] theorem lateBreach_pp (s : State) : (lateBreach s).pp = s.pp := rfl
@[simp] theorem lateBreach_oc (s : State) : (lateBreach s).oc = s.oc := rfl
@[simp] theorem lateBreach_params (s : State) : (lateBreach s).params = s.params := rfl
@[simp] theorem lateBreach_host (s : State) : (lateBreach s).host = s.host := rfl
@[simp] theorem lateBreach_unseen (s : State) : (lateBreach s).unseen = s.unseen := rfl
@[simp] theorem lateBreach_rdata (s : State) : (lateBreach s).rdata = s.rdata := rfl
@[simp] theorem lateBreach_phase (s : State) : (lateBreach s).phase = s.phase := rfl
@[simp] theorem lateBreach_wrote (s : State) : (lateBreach s).wrote = s.wrote := rfl
@[simp] theorem lateBreach_mem (s : State) : (lateBreach s).mem = breachedMemory s := rfl
@[simp] theorem lateBreach_done (s : State) : (lateBreach s).done = Config.freeBit s.freeCtr := rfl
@[simp] theorem lateBreach_err (s : State) :
    (lateBreach s).err = (!Config.freeBit s.freeCtr && Config.freeBit (s.freeCtr + 1)) := rfl
@[simp] theorem lateBreach_result0 (s : State) : (lateBreach s).result0 = Config.freeWord s.freeCtr 0 := rfl
@[simp] theorem lateBreach_result1 (s : State) : (lateBreach s).result1 = Config.freeWord s.freeCtr 1 := rfl
@[simp] theorem lateBreach_freeCtr (s : State) : (lateBreach s).freeCtr = s.freeCtr + 2 := rfl

/-! ### `observe` -/

@[simp] theorem observe_ie (s : State) (seen : Bool) : (observe s seen).ie = s.ie := rfl
@[simp] theorem observe_shortEnd (s : State) (seen : Bool) : (observe s seen).shortEnd = s.shortEnd := rfl
@[simp] theorem observe_done (s : State) (seen : Bool) : (observe s seen).done = s.done := rfl
@[simp] theorem observe_err (s : State) (seen : Bool) : (observe s seen).err = s.err := rfl
@[simp] theorem observe_cmdLost (s : State) (seen : Bool) : (observe s seen).cmdLost = s.cmdLost := rfl
@[simp] theorem observe_errcode (s : State) (seen : Bool) : (observe s seen).errcode = s.errcode := rfl
@[simp] theorem observe_cmd (s : State) (seen : Bool) : (observe s seen).cmd = s.cmd := rfl
@[simp] theorem observe_srcAddr (s : State) (seen : Bool) : (observe s seen).srcAddr = s.srcAddr := rfl
@[simp] theorem observe_srcLen (s : State) (seen : Bool) : (observe s seen).srcLen = s.srcLen := rfl
@[simp] theorem observe_dstAddr (s : State) (seen : Bool) : (observe s seen).dstAddr = s.dstAddr := rfl
@[simp] theorem observe_dstLen (s : State) (seen : Bool) : (observe s seen).dstLen = s.dstLen := rfl
@[simp] theorem observe_arg (s : State) (seen : Bool) : (observe s seen).arg = s.arg := rfl
@[simp] theorem observe_result0 (s : State) (seen : Bool) : (observe s seen).result0 = s.result0 := rfl
@[simp] theorem observe_result1 (s : State) (seen : Bool) : (observe s seen).result1 = s.result1 := rfl
@[simp] theorem observe_errinfo (s : State) (seen : Bool) : (observe s seen).errinfo = s.errinfo := rfl
@[simp] theorem observe_phase (s : State) (seen : Bool) : (observe s seen).phase = s.phase := rfl
@[simp] theorem observe_op (s : State) (seen : Bool) : (observe s seen).op = s.op := rfl
@[simp] theorem observe_sa (s : State) (seen : Bool) : (observe s seen).sa = s.sa := rfl
@[simp] theorem observe_sl (s : State) (seen : Bool) : (observe s seen).sl = s.sl := rfl
@[simp] theorem observe_da (s : State) (seen : Bool) : (observe s seen).da = s.da := rfl
@[simp] theorem observe_dl (s : State) (seen : Bool) : (observe s seen).dl = s.dl := rfl
@[simp] theorem observe_ar (s : State) (seen : Bool) : (observe s seen).ar = s.ar := rfl
@[simp] theorem observe_se (s : State) (seen : Bool) : (observe s seen).se = s.se := rfl
@[simp] theorem observe_wrote (s : State) (seen : Bool) : (observe s seen).wrote = s.wrote := rfl
@[simp] theorem observe_widths (s : State) (seen : Bool) : (observe s seen).widths = s.widths := rfl
@[simp] theorem observe_selbuf (s : State) (seen : Bool) : (observe s seen).selbuf = s.selbuf := rfl
@[simp] theorem observe_p (s : State) (seen : Bool) : (observe s seen).p = s.p := rfl
@[simp] theorem observe_rs (s : State) (seen : Bool) : (observe s seen).rs = s.rs := rfl
@[simp] theorem observe_rl (s : State) (seen : Bool) : (observe s seen).rl = s.rl := rfl
@[simp] theorem observe_b (s : State) (seen : Bool) : (observe s seen).b = s.b := rfl
@[simp] theorem observe_ob (s : State) (seen : Bool) : (observe s seen).ob = s.ob := rfl
@[simp] theorem observe_bufLen (s : State) (seen : Bool) : (observe s seen).bufLen = s.bufLen := rfl
@[simp] theorem observe_trlLen (s : State) (seen : Bool) : (observe s seen).trlLen = s.trlLen := rfl
@[simp] theorem observe_trlVal (s : State) (seen : Bool) : (observe s seen).trlVal = s.trlVal := rfl
@[simp] theorem observe_selStart (s : State) (seen : Bool) : (observe s seen).selStart = s.selStart := rfl
@[simp] theorem observe_sc (s : State) (seen : Bool) : (observe s seen).sc = s.sc := rfl
@[simp] theorem observe_pp (s : State) (seen : Bool) : (observe s seen).pp = s.pp := rfl
@[simp] theorem observe_oc (s : State) (seen : Bool) : (observe s seen).oc = s.oc := rfl
@[simp] theorem observe_mem (s : State) (seen : Bool) : (observe s seen).mem = s.mem := rfl
@[simp] theorem observe_params (s : State) (seen : Bool) : (observe s seen).params = s.params := rfl
@[simp] theorem observe_host (s : State) (seen : Bool) : (observe s seen).host = s.host := rfl
@[simp] theorem observe_unseen (s : State) (seen : Bool) : (observe s seen).unseen = (s.unseen && !seen) := rfl
@[simp] theorem observe_rdata (s : State) (seen : Bool) : (observe s seen).rdata = s.rdata := rfl
@[simp] theorem observe_freeCtr (s : State) (seen : Bool) : (observe s seen).freeCtr = s.freeCtr := rfl

/-! ### `resetTo` -/

@[simp] theorem resetTo_ie (s : State) (m : Memory) : (resetTo s m).ie = State.reset.ie := rfl
@[simp] theorem resetTo_shortEnd (s : State) (m : Memory) : (resetTo s m).shortEnd = State.reset.shortEnd := rfl
@[simp] theorem resetTo_done (s : State) (m : Memory) : (resetTo s m).done = State.reset.done := rfl
@[simp] theorem resetTo_err (s : State) (m : Memory) : (resetTo s m).err = State.reset.err := rfl
@[simp] theorem resetTo_cmdLost (s : State) (m : Memory) : (resetTo s m).cmdLost = State.reset.cmdLost := rfl
@[simp] theorem resetTo_errcode (s : State) (m : Memory) : (resetTo s m).errcode = State.reset.errcode := rfl
@[simp] theorem resetTo_cmd (s : State) (m : Memory) : (resetTo s m).cmd = State.reset.cmd := rfl
@[simp] theorem resetTo_srcAddr (s : State) (m : Memory) : (resetTo s m).srcAddr = State.reset.srcAddr := rfl
@[simp] theorem resetTo_srcLen (s : State) (m : Memory) : (resetTo s m).srcLen = State.reset.srcLen := rfl
@[simp] theorem resetTo_dstAddr (s : State) (m : Memory) : (resetTo s m).dstAddr = State.reset.dstAddr := rfl
@[simp] theorem resetTo_dstLen (s : State) (m : Memory) : (resetTo s m).dstLen = State.reset.dstLen := rfl
@[simp] theorem resetTo_arg (s : State) (m : Memory) : (resetTo s m).arg = State.reset.arg := rfl
@[simp] theorem resetTo_result0 (s : State) (m : Memory) : (resetTo s m).result0 = State.reset.result0 := rfl
@[simp] theorem resetTo_result1 (s : State) (m : Memory) : (resetTo s m).result1 = State.reset.result1 := rfl
@[simp] theorem resetTo_errinfo (s : State) (m : Memory) : (resetTo s m).errinfo = State.reset.errinfo := rfl
@[simp] theorem resetTo_phase (s : State) (m : Memory) : (resetTo s m).phase = State.reset.phase := rfl
@[simp] theorem resetTo_op (s : State) (m : Memory) : (resetTo s m).op = State.reset.op := rfl
@[simp] theorem resetTo_sa (s : State) (m : Memory) : (resetTo s m).sa = State.reset.sa := rfl
@[simp] theorem resetTo_sl (s : State) (m : Memory) : (resetTo s m).sl = State.reset.sl := rfl
@[simp] theorem resetTo_da (s : State) (m : Memory) : (resetTo s m).da = State.reset.da := rfl
@[simp] theorem resetTo_dl (s : State) (m : Memory) : (resetTo s m).dl = State.reset.dl := rfl
@[simp] theorem resetTo_ar (s : State) (m : Memory) : (resetTo s m).ar = State.reset.ar := rfl
@[simp] theorem resetTo_se (s : State) (m : Memory) : (resetTo s m).se = State.reset.se := rfl
@[simp] theorem resetTo_wrote (s : State) (m : Memory) : (resetTo s m).wrote = State.reset.wrote := rfl
@[simp] theorem resetTo_widths (s : State) (m : Memory) : (resetTo s m).widths = State.reset.widths := rfl
@[simp] theorem resetTo_selbuf (s : State) (m : Memory) : (resetTo s m).selbuf = State.reset.selbuf := rfl
@[simp] theorem resetTo_p (s : State) (m : Memory) : (resetTo s m).p = State.reset.p := rfl
@[simp] theorem resetTo_rs (s : State) (m : Memory) : (resetTo s m).rs = State.reset.rs := rfl
@[simp] theorem resetTo_rl (s : State) (m : Memory) : (resetTo s m).rl = State.reset.rl := rfl
@[simp] theorem resetTo_b (s : State) (m : Memory) : (resetTo s m).b = State.reset.b := rfl
@[simp] theorem resetTo_ob (s : State) (m : Memory) : (resetTo s m).ob = State.reset.ob := rfl
@[simp] theorem resetTo_bufLen (s : State) (m : Memory) : (resetTo s m).bufLen = State.reset.bufLen := rfl
@[simp] theorem resetTo_trlLen (s : State) (m : Memory) : (resetTo s m).trlLen = State.reset.trlLen := rfl
@[simp] theorem resetTo_trlVal (s : State) (m : Memory) : (resetTo s m).trlVal = State.reset.trlVal := rfl
@[simp] theorem resetTo_selStart (s : State) (m : Memory) : (resetTo s m).selStart = State.reset.selStart := rfl
@[simp] theorem resetTo_sc (s : State) (m : Memory) : (resetTo s m).sc = State.reset.sc := rfl
@[simp] theorem resetTo_pp (s : State) (m : Memory) : (resetTo s m).pp = State.reset.pp := rfl
@[simp] theorem resetTo_oc (s : State) (m : Memory) : (resetTo s m).oc = State.reset.oc := rfl
@[simp] theorem resetTo_mem (s : State) (m : Memory) : (resetTo s m).mem = m := rfl
@[simp] theorem resetTo_params (s : State) (m : Memory) : (resetTo s m).params = s.params := rfl
@[simp] theorem resetTo_host (s : State) (m : Memory) : (resetTo s m).host = s.host := rfl
@[simp] theorem resetTo_unseen (s : State) (m : Memory) : (resetTo s m).unseen = State.reset.unseen := rfl
@[simp] theorem resetTo_rdata (s : State) (m : Memory) : (resetTo s m).rdata = s.rdata := rfl
@[simp] theorem resetTo_freeCtr (s : State) (m : Memory) : (resetTo s m).freeCtr = s.freeCtr + 1 := rfl

end Sys2Proof.Machine
end

