-- ==== Sys2Proof/Laws/Ops.lean ====
section
/-! SUPPORT. For each shared operation, once, everything it can do: the engine's accesses, the outcome of a command's
work, and a turn. -/

namespace Sys2Proof.Machine

/-! ### Engine accesses -/

theorem anyBusErr_eq_false {p : Params} {a n : Nat} :
    anyBusErr p a n = false ↔ ∀ i, i < n → busErrAt p (a + i) = false := by
  simp [anyBusErr]

/-- An access completes exactly when it lies in the address space and no byte of it answers with an error. -/
theorem access_ok_iff {s : State} {a n : Nat} :
    access s a n = .ok () ↔ a + n ≤ 2 ^ 32 ∧ ∀ i, i < n → busErrAt s.params (a + i) = false := by
  unfold access
  rw [← anyBusErr_eq_false]
  split
  · simp; omega
  · split <;> simp_all

/-- The three outcomes of an access. -/
theorem access_cases (s : State) (a n : Nat) :
    access s a n = .ok () ∨ access s a n = .error (.raise s .busError a) ∨
      (2 ^ 32 < a + n ∧ access s a n = .error (.fault .outsideAddressSpace)) := by
  unfold access
  split
  · exact .inr (.inr ⟨‹_›, rfl⟩)
  · split
    · exact .inr (.inl rfl)
    · exact .inl rfl

/-- What a read that answers gives. -/
theorem memRead_ok {s : State} {a n v : Nat} (h : memRead s a n = .ok v) :
    v = Memory.readLE s.mem a n ∧ access s a n = .ok () := by
  unfold memRead at h
  rcases access_cases s a n with h' | h' | ⟨_, h'⟩ <;> rw [h'] at h <;> simp_all

/-- A read whose access completes answers with the bytes there. -/
theorem memRead_of_access {s : State} {a n : Nat} (h : access s a n = .ok ()) :
    memRead s a n = .ok (Memory.readLE s.mem a n) := by
  simp [memRead, h]

/-- What a write that completes leaves. -/
theorem memWrite_ok {s t : State} {a n v : Nat} (h : memWrite s a n v = .ok t) :
    t = { s with mem := Memory.writeLE s.mem a n v, wrote := true } ∧ access s a n = .ok () := by
  unfold memWrite at h
  rcases access_cases s a n with h' | h' | ⟨_, h'⟩ <;> rw [h'] at h <;> simp_all

/-- A write whose access completes stores its bytes. -/
theorem memWrite_of_access {s : State} {a n : Nat} (v : Nat) (h : access s a n = .ok ()) :
    memWrite s a n v = .ok { s with mem := Memory.writeLE s.mem a n v, wrote := true } := by
  simp [memWrite, h]

/-- What writes that all complete leave: only memory and the note that the command wrote can differ, memory keeps its
form, and no byte outside the words written changes. -/
theorem writeAll_ok {n : Nat} : ∀ {vs : List Nat} {s t : State} {a : Nat}, writeAll n s a vs = .ok t →
    t = { s with mem := t.mem, wrote := t.wrote } ∧ (Memory.wf s.mem = true → Memory.wf t.mem = true) ∧
      ∀ b, (b < a ∨ a + n * vs.length ≤ b) → Memory.read t.mem b = Memory.read s.mem b
  | [], s, t, a, h => by
    simp only [writeAll, Except.ok.injEq] at h
    subst h
    exact ⟨rfl, id, fun _ _ => rfl⟩
  | v :: vs, s, t, a, h => by
    unfold writeAll at h
    split at h
    · cases h
    · rename_i s' hs'
      obtain ⟨rfl, hacc⟩ := memWrite_ok hs'
      obtain ⟨h1, h2, h3⟩ := writeAll_ok h
      refine ⟨h1, fun hm => h2 (writeLE_wf v hm (access_ok_iff.mp hacc).1), fun b hb => ?_⟩
      have hlen : n * (v :: vs).length = n + n * vs.length := by simp [Nat.mul_add, Nat.add_comm]
      rw [h3 b (by omega)]
      exact read_writeLE_outside _ _ (by omega)

/-! ### The outcome of a command's work -/

@[simp] theorem finish_ok (d : State → Range) (s : State) : finish d (.ok s) = .next s := rfl

@[simp] theorem finish_raise (d : State → Range) (s : State) (e : ErrCode) (info : Nat) :
    finish d (.error (.raise s e info)) = .next (raiseError s (d s) e info) := rfl

@[simp] theorem finish_fault (d : State → Range) (f : Fault) : finish d (.error (.fault f)) = .fault f := rfl

/-- What a command's work that ends in a next state did: it succeeded, or it raised an error. -/
theorem finish_next {d : State → Range} {x : Res State} {t : State} (h : finish d x = .next t) :
    x = .ok t ∨ ∃ s e info, x = .error (.raise s e info) ∧ t = raiseError s (d s) e info := by
  match x, h with
  | .ok _, h => exact .inl (by simpa using h)
  | .error (.raise s e info), h => exact .inr ⟨s, e, info, rfl, by simpa using h.symm⟩
  | .error (.fault _), h => simp at h

/-- A command's work is never refused. -/
theorem finish_ne_refused (d : State → Range) (x : Res State) (r : Refusal) : finish d x ≠ .refused r := by
  match x with
  | .ok _ => simp
  | .error (.raise _ _ _) => simp
  | .error (.fault _) => simp

/-! ### Turns -/

/-- A step is its turn's instruction or its turn's answer. -/
theorem step_of_run {s s' : State} {i : Instr} (h : nextTurn s = .run i s') : step s = exec i s' := by
  simp [step, h]

theorem step_of_answer {s : State} {o : Host.Outcome State Fault Refusal} (h : nextTurn s = .answer o) : step s = o := by
  simp [step, h]

/-- A selector instruction is the shared selector operation at its width. -/
theorem exec_sel (w : Width) (count : Nat) (s : State) : exec (Instr.sel w count) s = execSelector w count s := by
  cases w <;> rfl

end Sys2Proof.Machine
end

