-- ==== Sys2Proof/Laws/Commands.lean ====
section
/-! SUPPORT. For each operation of a command's work, once, everything it can do: the reads of ENCODE, the trailer scan,
the blocks and selectors of DECODE, and the two commands. -/

namespace Sys2Proof.Machine

/-! ### Reads and writes -/

/-- How an access ends when it does not complete: BUS_ERROR at its lowest address, or the fault past the top. -/
theorem access_error {s : State} {a n : Nat} {e : Stop} (h : access s a n = .error e) :
    e = .raise s .busError a ∨ (2 ^ 32 < a + n ∧ e = .fault .outsideAddressSpace) := by
  rcases access_cases s a n with h' | h' | ⟨hlt, h'⟩ <;> rw [h'] at h <;> simp_all

theorem memRead_error {s : State} {a n : Nat} {e : Stop} (h : memRead s a n = .error e) :
    e = .raise s .busError a ∨ (2 ^ 32 < a + n ∧ e = .fault .outsideAddressSpace) := by
  unfold memRead at h
  split at h
  · rename_i e' he
    cases h
    exact access_error he
  · cases h

theorem memWrite_error {s : State} {a n v : Nat} {e : Stop} (h : memWrite s a n v = .error e) :
    e = .raise s .busError a ∨ (2 ^ 32 < a + n ∧ e = .fault .outsideAddressSpace) := by
  unfold memWrite at h
  split at h
  · rename_i e' he
    cases h
    exact access_error he
  · cases h

/-- What word reads that all answer give: the words there, in order. -/
theorem readWords_ok {s : State} : ∀ {k a : Nat} {vs : List Word}, readWords s a k = .ok vs →
    vs = (List.range k).map (fun i => BitVec.ofNat 32 (Memory.readLE s.mem (a + 4 * i) 4))
  | 0, _, _, h => by
    simp only [readWords, Except.ok.injEq] at h
    simp [← h]
  | k + 1, a, vs, h => by
    unfold readWords at h
    split at h
    · cases h
    · rename_i v hv
      split at h
      · cases h
      · rename_i ws hws
        simp only [Except.ok.injEq] at h
        rw [← h, List.range_succ_eq_map, List.map_cons, List.map_map, readWords_ok hws, (memRead_ok hv).1]
        simp only [List.cons.injEq, Nat.mul_zero, Nat.add_zero, true_and]
        refine List.map_congr_left fun i _ => ?_
        simp only [Function.comp_apply]
        rw [show a + 4 + 4 * i = a + 4 * i.succ by omega]

/-- Word reads that lie in the address space and answer give their words. -/
theorem readWords_of_access {s : State} : ∀ {k a : Nat}, a + 4 * k ≤ 2 ^ 32 →
    (∀ b, a ≤ b → b < a + 4 * k → busErrAt s.params b = false) →
    readWords s a k = .ok ((List.range k).map (fun i => BitVec.ofNat 32 (Memory.readLE s.mem (a + 4 * i) 4)))
  | 0, _, _, _ => rfl
  | k + 1, a, ha, hb => by
    have h1 : access s a 4 = .ok () :=
      access_ok_iff.mpr ⟨by omega, fun i hi => hb _ (by omega) (by omega)⟩
    have h2 := readWords_of_access (s := s) (k := k) (a := a + 4) (by omega) (fun b h3 h4 => hb b (by omega) (by omega))
    have h5 : readWords s a (k + 1) = .ok (BitVec.ofNat 32 (Memory.readLE s.mem a 4) ::
        (List.range k).map (fun i => BitVec.ofNat 32 (Memory.readLE s.mem (a + 4 + 4 * i) 4))) := by
      simp only [readWords, memRead_of_access h1, h2]
    rw [h5, ← readWords_ok h5]

/-- How word reads end when one does not complete: the state carried is the one they began with. -/
theorem readWords_error {s : State} {e : Stop} : ∀ {k a : Nat}, readWords s a k = .error e →
    (∃ b, a ≤ b ∧ b < a + 4 * k ∧ e = .raise s .busError b) ∨ (2 ^ 32 < a + 4 * k ∧ e = .fault .outsideAddressSpace)
  | 0, _, h => by cases h
  | k + 1, a, h => by
    unfold readWords at h
    split at h
    · rename_i e' he
      cases h
      rcases memRead_error he with h' | ⟨h1, h2⟩
      · exact .inl ⟨a, le_refl a, by omega, h'⟩
      · exact .inr ⟨by omega, h2⟩
    · split at h
      · rename_i e' he
        cases h
        rcases readWords_error he with ⟨b, h1, h2, h3⟩ | ⟨h1, h2⟩
        · exact .inl ⟨b, by omega, by omega, h3⟩
        · exact .inr ⟨by omega, h2⟩
      · cases h

/-- What a stretch of a command's work leaves when it wrote nothing outside `[lo, hi)`: memory, the note that it wrote
and the payload cursor can differ. -/
structure WroteOnly (lo hi : Nat) (s t : State) : Prop where
  rest : t = { s with mem := t.mem, wrote := t.wrote, pp := t.pp }
  wf : Memory.wf s.mem = true → Memory.wf t.mem = true
  frame : ∀ b, (b < lo ∨ hi ≤ b) → Memory.read t.mem b = Memory.read s.mem b

theorem WroteOnly.refl (lo hi : Nat) (s : State) : WroteOnly lo hi s s := ⟨rfl, id, fun _ _ => rfl⟩

theorem WroteOnly.trans {lo hi : Nat} {s t u : State} (h1 : WroteOnly lo hi s t) (h2 : WroteOnly lo hi t u) :
    WroteOnly lo hi s u := by
  refine ⟨?_, fun h => h2.wf (h1.wf h), fun b hb => (h2.frame b hb).trans (h1.frame b hb)⟩
  have h3 := h2.rest
  rw [h1.rest] at h3
  exact h3

theorem WroteOnly.mono {lo hi lo' hi' : Nat} {s t : State} (h : WroteOnly lo hi s t) (h1 : lo' ≤ lo) (h2 : hi ≤ hi') :
    WroteOnly lo' hi' s t :=
  ⟨h.rest, h.wf, fun b hb => h.frame b (by omega)⟩

theorem memWrite_wroteOnly {s t : State} {a n v : Nat} (h : memWrite s a n v = .ok t) : WroteOnly a (a + n) s t := by
  obtain ⟨rfl, hacc⟩ := memWrite_ok h
  exact ⟨rfl, fun hm => writeLE_wf v hm (access_ok_iff.mp hacc).1, fun b hb => read_writeLE_outside _ _ hb⟩

theorem writeAll_wroteOnly {n : Nat} {vs : List Nat} {s t : State} {a : Nat} (h : writeAll n s a vs = .ok t) :
    WroteOnly a (a + n * vs.length) s t := by
  obtain ⟨h1, h2, h3⟩ := writeAll_ok h
  exact ⟨by rw [h1], h2, h3⟩

/-- Writes that lie in the address space and answer complete. -/
theorem writeAll_of_access {n : Nat} : ∀ {vs : List Nat} {s : State} {a : Nat}, a + n * vs.length ≤ 2 ^ 32 →
    (∀ b, a ≤ b → b < a + n * vs.length → busErrAt s.params b = false) → ∃ t, writeAll n s a vs = .ok t
  | [], s, _, _, _ => ⟨s, rfl⟩
  | v :: vs, s, a, ha, hb => by
    have hlen : n * (v :: vs).length = n + n * vs.length := by simp [Nat.mul_add, Nat.add_comm]
    have h1 : access s a n = .ok () :=
      access_ok_iff.mpr ⟨by omega, fun i hi => hb _ (by omega) (by omega)⟩
    obtain ⟨t, ht⟩ := writeAll_of_access (n := n) (vs := vs)
      (s := { s with mem := Memory.writeLE s.mem a n v, wrote := true }) (a := a + n) (by omega)
      (fun b h2 h3 => hb b (by omega) (by omega))
    exact ⟨t, by simp only [writeAll, memWrite_of_access v h1, ht]⟩

/-- How writes end when one does not complete: the state carried wrote only words before it. -/
theorem writeAll_error {n : Nat} {e : Stop} : ∀ {vs : List Nat} {s : State} {a : Nat}, writeAll n s a vs = .error e →
    (∃ t b, e = .raise t .busError b ∧ WroteOnly a (a + n * vs.length) s t) ∨
      (2 ^ 32 < a + n * vs.length ∧ e = .fault .outsideAddressSpace)
  | [], _, _, h => by cases h
  | v :: vs, s, a, h => by
    have hlen : n * (v :: vs).length = n + n * vs.length := by simp [Nat.mul_add, Nat.add_comm]
    unfold writeAll at h
    split at h
    · rename_i e' he
      cases h
      rcases memWrite_error he with h' | ⟨h1, h2⟩
      · exact .inl ⟨s, a, h', WroteOnly.refl _ _ _⟩
      · exact .inr ⟨by omega, h2⟩
    · rename_i s' hs'
      rcases writeAll_error h with ⟨t, b, h1, h2⟩ | ⟨h1, h2⟩
      · exact .inl ⟨t, b, h1, ((memWrite_wroteOnly hs').mono (le_refl a) (by omega)).trans
          (h2.mono (by omega) (by omega))⟩
      · exact .inr ⟨by omega, h2⟩

/-! ### The trailer -/

/-- Everything the backward scan can do from index `i` with `left` more bytes. -/
theorem vbyteScan_cases {s : State} {base : Nat} : ∀ {left i acc t b : Nat},
    (∃ v t', vbyteScan s base left i acc t b = .ok (v, t') ∧ t ≤ t' ∧ t' ≤ t + left ∧ t' ≤ t + i) ∨
    (∃ info, vbyteScan s base left i acc t b = .error (.raise s .badTrailer info) ∧ (info = 1 ∨ info = 2)) ∨
    (∃ a, vbyteScan s base left i acc t b = .error (.raise s .busError a) ∧ base ≤ a ∧ a < base + i) ∨
    (2 ^ 32 < base + i ∧ vbyteScan s base left i acc t b = .error (.fault .outsideAddressSpace))
  | left, i, acc, t, b => by
    unfold vbyteScan
    split
    · exact .inl ⟨acc, t, rfl, by omega, by omega, by omega⟩
    · cases left with
      | zero => exact .inr (.inl ⟨2, rfl, .inr rfl⟩)
      | succ left =>
        simp only
        split
        · exact .inr (.inl ⟨1, rfl, .inl rfl⟩)
        · rename_i hi
          split
          · rename_i e he
            rcases memRead_error he with rfl | ⟨h1, rfl⟩
            · exact .inr (.inr (.inl ⟨_, rfl, by omega, by omega⟩))
            · exact .inr (.inr (.inr ⟨by omega, rfl⟩))
          · rename_i b' _
            rcases vbyteScan_cases (s := s) (base := base) (left := left) (i := i - 1)
              (acc := (acc <<< 7) ||| (b' &&& 0x7F)) (t := t + 1) (b := b') with
              ⟨v, t', h1, h2, h3, h4⟩ | h | ⟨a, h1, h2, h3⟩ | ⟨h1, h2⟩
            · exact .inl ⟨v, t', h1, by omega, by omega, by omega⟩
            · exact .inr (.inl h)
            · exact .inr (.inr (.inl ⟨a, h1, h2, by omega⟩))
            · exact .inr (.inr (.inr ⟨by omega, h2⟩))

/-- Everything the backward decoder can do: a value below 2^32 with a length of 1 to 5, BAD_TRAILER with 1, 2 or 3,
BUS_ERROR at an address of the range, or the fault of a range past the top. -/
theorem vbyteDec_cases (s : State) (base len : Nat) :
    (∃ v t, vbyteDec s base len = .ok (v, t) ∧ v < 2 ^ 32 ∧ 1 ≤ t ∧ t ≤ 5 ∧ t ≤ len) ∨
    (∃ info, vbyteDec s base len = .error (.raise s .badTrailer info) ∧ (info = 1 ∨ info = 2 ∨ info = 3)) ∨
    (∃ a, vbyteDec s base len = .error (.raise s .busError a) ∧ base ≤ a ∧ a < base + len) ∨
    (2 ^ 32 < base + len ∧ vbyteDec s base len = .error (.fault .outsideAddressSpace)) := by
  unfold vbyteDec
  split
  · exact .inr (.inl ⟨1, rfl, .inl rfl⟩)
  · rename_i hlen
    split
    · rename_i e he
      rcases memRead_error he with rfl | ⟨h1, rfl⟩
      · exact .inr (.inr (.inl ⟨_, rfl, by omega, by omega⟩))
      · exact .inr (.inr (.inr ⟨by omega, rfl⟩))
    · rename_i b _
      rcases vbyteScan_cases (s := s) (base := base) (left := 4) (i := len - 1) (acc := b &&& 0x7F) (t := 1) (b := b) with
        ⟨v, t', h1, h2, h3, h4⟩ | ⟨info, h1, h2⟩ | ⟨a, h1, h2, h3⟩ | ⟨h1, h2⟩
      · rw [h1]
        simp only
        split
        · exact .inr (.inl ⟨3, rfl, .inr (.inr rfl)⟩)
        · exact .inl ⟨v, t', rfl, by omega, h2, by omega, by omega⟩
      · rw [h1]
        exact .inr (.inl ⟨info, rfl, by omega⟩)
      · rw [h1]
        exact .inr (.inr (.inl ⟨a, rfl, h2, by omega⟩))
      · rw [h2]
        exact .inr (.inr (.inr ⟨by omega, rfl⟩))

/-! ### Blocks -/

/-- A column read gives its word, or its two words, or ends as a read can. -/
theorem readColumn_cases (s : State) (base units l : Nat) :
    (∃ x, readColumn s base units l = .ok x) ∨ (∃ a, readColumn s base units l = .error (.raise s .busError a)) ∨
      (2 ^ 32 < base + 4 * l + (if units = 2 then 20 else 4) ∧
        readColumn s base units l = .error (.fault .outsideAddressSpace)) := by
  unfold readColumn
  split
  · rename_i e he
    rcases memRead_error he with rfl | ⟨h1, rfl⟩
    · exact .inr (.inl ⟨_, rfl⟩)
    · exact .inr (.inr ⟨by split <;> omega, rfl⟩)
  · split
    · rename_i hu
      split
      · rename_i e he
        rcases memRead_error he with rfl | ⟨h1, rfl⟩
        · exact .inr (.inl ⟨_, rfl⟩)
        · exact .inr (.inr ⟨by omega, rfl⟩)
      · exact .inl ⟨_, rfl⟩
    · exact .inl ⟨_, rfl⟩

/-- The reads of a block's columns end as a read can, the state as it was. -/
theorem readColumns_error {s : State} {base units : Nat} {e : Stop} : ∀ {k l : Nat},
    readColumns s base units l k = .error e →
    (∃ a, e = .raise s .busError a) ∨
      (2 ^ 32 < base + 4 * (l + k) + (if units = 2 then 16 else 0) ∧ e = .fault .outsideAddressSpace)
  | 0, _, h => by cases h
  | k + 1, l, h => by
    unfold readColumns at h
    split at h
    · rename_i e' he
      cases h
      rcases readColumn_cases s base units l with ⟨x, hx⟩ | ⟨a, ha⟩ | ⟨h1, h2⟩
      · rw [hx] at he; cases he
      · rw [ha] at he
        exact .inl ⟨a, by simpa using he.symm⟩
      · rw [h2] at he
        refine .inr ⟨?_, by simpa using he.symm⟩
        split at h1 <;> simp_all <;> omega
    · split at h
      · rename_i e' he
        cases h
        rcases readColumns_error he with h' | ⟨h1, h2⟩
        · exact .inl h'
        · exact .inr ⟨by rw [show l + (k + 1) = l + 1 + k by omega]; exact h1, h2⟩
      · cases h

/-- Everything a direct copy can do. -/
theorem copyDirect_cases {bytes : Nat} : ∀ {k j : Nat} {s : State},
    let lo := s.da.toNat + 4 * (s.oc + j)
    (∃ t, copyDirect bytes j k s = .ok t ∧ WroteOnly lo (lo + 4 * k) s t ∧ t.pp = s.pp) ∨
    (∃ t a, copyDirect bytes j k s = .error (.raise t .busError a) ∧ WroteOnly lo (lo + 4 * k) s t) ∨
    ((2 ^ 32 < s.sa.toNat + s.pp + bytes * (j + k) ∨ 2 ^ 32 < lo + 4 * k) ∧
      copyDirect bytes j k s = .error (.fault .outsideAddressSpace))
  | 0, j, s => .inl ⟨s, rfl, WroteOnly.refl _ _ _, rfl⟩
  | k + 1, j, s => by
    intro lo
    have hmul : bytes * (j + (k + 1)) = bytes * j + bytes + bytes * k := by ring
    unfold copyDirect
    split
    · rename_i e he
      rcases memRead_error he with rfl | ⟨h1, rfl⟩
      · exact .inr (.inl ⟨s, _, rfl, WroteOnly.refl _ _ _⟩)
      · exact .inr (.inr ⟨.inl (by rw [hmul]; omega), rfl⟩)
    · split
      · rename_i e he
        rcases memWrite_error he with rfl | ⟨h1, rfl⟩
        · exact .inr (.inl ⟨s, _, rfl, WroteOnly.refl _ _ _⟩)
        · exact .inr (.inr ⟨.inr (by omega), rfl⟩)
      · rename_i s' hs'
        have hw := memWrite_wroteOnly hs'
        obtain ⟨rfl, _⟩ := memWrite_ok hs'
        rcases copyDirect_cases (bytes := bytes) (k := k) (j := j + 1)
          (s := { s with mem := _, wrote := true }) with ⟨t, h1, h2, h3⟩ | ⟨t, a, h1, h2⟩ | ⟨h1, h2⟩
        · exact .inl ⟨t, h1, (hw.mono (by omega) (by omega)).trans (h2.mono (by simp only; omega) (by simp only; omega)), h3⟩
        · exact .inr (.inl ⟨t, a, h1,
            (hw.mono (by omega) (by omega)).trans (h2.mono (by simp only; omega) (by simp only; omega))⟩)
        · refine .inr (.inr ⟨?_, h2⟩)
          simp only at h1
          rw [show j + 1 + k = j + (k + 1) by omega] at h1
          omega

/-- The bytes a block of `r` values consumes are at most its full size. -/
theorem bytesFor_le_blockBytes {w : Width} {r : Nat} (h : r ≤ w.blockInts) : w.bytesFor r ≤ w.blockBytes := by
  cases w <;> simp_all [Width.bytesFor, Width.blockBytes, Width.kind, Width.blockInts] <;> omega

theorem kind_units {w : Width} {units : Nat} (h : w.kind = .packed units) : units = 1 ∨ units = 2 := by
  cases w <;> simp_all [Width.kind]

/-- Everything the block operation can do: its outputs are written and its payload consumed, PAYLOAD_OVERRUN before
anything is read, BUS_ERROR part way, or the fault of a range past the top. -/
theorem unpackBlock_cases (w : Width) (r : Nat) (s : State) :
    let lo := s.da.toNat + 4 * s.oc
    (∃ t, unpackBlock w r s = .ok t ∧ WroteOnly lo (lo + 4 * r) s t ∧ t.pp = s.pp + w.bytesFor r ∧
      (w ≠ .w0 → t.pp ≤ s.selStart)) ∨
    (w ≠ .w0 ∧ s.selStart < s.pp + w.bytesFor r ∧
      unpackBlock w r s = .error (.raise s .payloadOverrun s.pp)) ∨
    (∃ t a, unpackBlock w r s = .error (.raise t .busError a) ∧ WroteOnly lo (lo + 4 * r) s t) ∨
    ((2 ^ 32 < s.sa.toNat + s.selStart ∨ 2 ^ 32 < lo + 4 * r) ∧
      unpackBlock w r s = .error (.fault .outsideAddressSpace)) := by
  intro lo
  unfold unpackBlock
  split
  · rename_i hk
    have hw : w = .w0 := by cases w <;> simp_all [Width.kind]
    have hb : w.bytesFor r = 0 := by simp [Width.bytesFor, hk]
    cases hres : writeAll 4 s (s.da.toNat + 4 * s.oc) (List.replicate r 1) with
    | ok t =>
      have h1 := writeAll_wroteOnly hres
      rw [List.length_replicate] at h1
      refine .inl ⟨t, rfl, h1, ?_, fun h => absurd hw h⟩
      rw [(writeAll_ok hres).1, hb, Nat.add_zero]
    | error e =>
      rcases writeAll_error hres with ⟨t, b, rfl, h2⟩ | ⟨h1, rfl⟩
      · rw [List.length_replicate] at h2
        exact .inr (.inr (.inl ⟨t, b, rfl, h2⟩))
      · rw [List.length_replicate] at h1
        exact .inr (.inr (.inr ⟨.inr (by omega), rfl⟩))
  · rename_i units hk
    have hw : w ≠ .w0 := by rintro rfl; simp [Width.kind] at hk
    have hb : w.bytesFor r = w.blockBytes := by simp [Width.bytesFor, Width.blockBytes, hk]
    have hbb : w.blockBytes = 16 * units := by simp [Width.blockBytes, hk]
    rw [hb]
    split
    · rename_i hlt
      exact .inr (.inl ⟨hw, hlt, rfl⟩)
    · split
      · rename_i e he
        rcases readColumns_error he with ⟨a, rfl⟩ | ⟨h1, rfl⟩
        · exact .inr (.inr (.inl ⟨s, a, rfl, WroteOnly.refl _ _ _⟩))
        · refine .inr (.inr (.inr ⟨.inl ?_, rfl⟩))
          rcases kind_units hk with rfl | rfl <;> simp at h1 <;> omega
      · rename_i cols _
        split
        · rename_i e he
          rcases writeAll_error he with ⟨t, b, rfl, h2⟩ | ⟨h1, rfl⟩
          · simp only [List.length_map, List.length_range] at h2
            exact .inr (.inr (.inl ⟨t, b, rfl, h2⟩))
          · simp only [List.length_map, List.length_range] at h1
            exact .inr (.inr (.inr ⟨.inr (by omega), rfl⟩))
        · rename_i t ht
          have h1 := writeAll_wroteOnly ht
          simp only [List.length_map, List.length_range] at h1
          refine .inl ⟨_, rfl, ⟨?_, h1.wf, h1.frame⟩, rfl, fun _ => by simp only; omega⟩
          rw [h1.rest]
  · rename_i bytes hk
    have hw : w ≠ .w0 := by rintro rfl; simp [Width.kind] at hk
    have hb : w.bytesFor r = bytes * r := by simp [Width.bytesFor, hk, Nat.mul_comm]
    rw [hb]
    split
    · rename_i hlt
      exact .inr (.inl ⟨hw, hlt, rfl⟩)
    · rename_i hle
      rcases copyDirect_cases (bytes := bytes) (k := r) (j := 0) (s := s) with ⟨t, h1, h2, h3⟩ | ⟨t, a, h1, h2⟩ | ⟨h1, h2⟩
      · rw [h1]
        refine .inl ⟨_, rfl, ⟨?_, h2.wf, h2.frame⟩, rfl, fun _ => by simp only; omega⟩
        rw [h2.rest]
      · rw [h1]
        exact .inr (.inr (.inl ⟨t, a, rfl, h2⟩))
      · rw [h2]
        refine .inr (.inr (.inr ⟨?_, rfl⟩))
        simp only [Nat.zero_add, Nat.add_zero] at h1
        omega

/-! ### Selectors -/

/-- What a stretch of DECODE's selector loop leaves: memory inside the destination range, the note that it wrote and the
payload and output cursors can differ. -/
structure UnpackedOnly (s t : State) : Prop where
  rest : t = { s with mem := t.mem, wrote := t.wrote, pp := t.pp, oc := t.oc }
  wf : Memory.wf s.mem = true → Memory.wf t.mem = true
  frame : ∀ b, (b < s.da.toNat + 4 * s.oc ∨ s.da.toNat + 4 * s.dl.toNat ≤ b) → Memory.read t.mem b = Memory.read s.mem b

theorem UnpackedOnly.refl (s : State) : UnpackedOnly s s := ⟨rfl, id, fun _ _ => rfl⟩

theorem UnpackedOnly.trans {s t u : State} (h1 : UnpackedOnly s t) (hoc : s.oc ≤ t.oc) (h2 : UnpackedOnly t u) :
    UnpackedOnly s u := by
  have hda : t.da = s.da := by rw [h1.rest]
  have hdl : t.dl = s.dl := by rw [h1.rest]
  refine ⟨?_, fun h => h2.wf (h1.wf h), fun b hb => ?_⟩
  · have h3 := h2.rest
    rw [h1.rest] at h3
    exact h3
  · rw [h2.frame b (by rw [hda, hdl]; omega), h1.frame b hb]

theorem WroteOnly.toUnpackedOnly {s t : State} {k : Nat}
    (h : WroteOnly (s.da.toNat + 4 * s.oc) (s.da.toNat + 4 * s.oc + 4 * k) s t) (hk : s.oc + k ≤ s.dl.toNat) :
    UnpackedOnly s t := by
  refine ⟨?_, h.wf, fun b hb => h.frame b (by omega)⟩
  have h1 := h.rest
  have h2 : t.oc = s.oc := by rw [h1]
  rw [h2]
  exact h1

/-- The blocks of a width hold at least four values. -/
theorem blockInts_pos (w : Width) : 4 ≤ w.blockInts := by cases w <;> simp [Width.blockInts]

/-- Everything the blocks of a selector can do from a cursor within the output count: they write
min(c * N(w), DL - oc) values inside the destination range, or end part way with PAYLOAD_OVERRUN or BUS_ERROR, or meet
the fault of a range past the top. -/
theorem unpackBlocks_cases (w : Width) : ∀ (c : Nat) (s : State), s.oc ≤ s.dl.toNat →
    (∃ t, unpackBlocks w c s = .ok t ∧ UnpackedOnly s t ∧ t.oc = s.oc + min (c * w.blockInts) (s.dl.toNat - s.oc) ∧
      s.pp ≤ t.pp ∧ (s.pp ≤ s.selStart → t.pp ≤ s.selStart)) ∨
    (∃ t e info, unpackBlocks w c s = .error (.raise t e info) ∧ UnpackedOnly s t ∧
      ((e = .payloadOverrun ∧ w ≠ .w0) ∨ e = .busError)) ∨
    ((2 ^ 32 < s.sa.toNat + s.selStart ∨ 2 ^ 32 < s.da.toNat + 4 * s.dl.toNat) ∧
      unpackBlocks w c s = .error (.fault .outsideAddressSpace))
  | 0, s, _ => .inl ⟨s, rfl, UnpackedOnly.refl s, by simp, le_refl _, id⟩
  | c + 1, s, hoc => by
    have hN := blockInts_pos w
    unfold unpackBlocks
    split
    · rename_i hd
      exact .inl ⟨s, rfl, UnpackedOnly.refl s, by omega, le_refl _, id⟩
    · rename_i hd
      rcases unpackBlock_cases w (min w.blockInts (s.dl.toNat - s.oc)) s with
        ⟨t, h1, h2, h3, h4⟩ | ⟨hw, _, h1⟩ | ⟨t, a, h1, h2⟩ | ⟨h1, h2⟩
      · rw [h1]
        simp only
        have hu := h2.toUnpackedOnly (by omega)
        have hda : t.da = s.da := by rw [hu.rest]
        have hdl : t.dl = s.dl := by rw [hu.rest]
        have hsa : t.sa = s.sa := by rw [hu.rest]
        have hss : t.selStart = s.selStart := by rw [hu.rest]
        have hu' : UnpackedOnly s { t with oc := s.oc + min w.blockInts (s.dl.toNat - s.oc) } :=
          ⟨by rw [hu.rest], hu.wf, hu.frame⟩
        have hpp : s.pp ≤ s.selStart → t.pp ≤ s.selStart := by
          intro h
          by_cases hw : w = .w0
          · subst hw
            rw [h3]
            simpa [Width.bytesFor, Width.kind] using h
          · exact h4 hw
        rcases unpackBlocks_cases w c { t with oc := s.oc + min w.blockInts (s.dl.toNat - s.oc) }
          (by simp only [hdl]; omega) with ⟨u, k1, k2, k3, k4, k5⟩ | ⟨u, e, info, k1, k2, k3⟩ | ⟨k1, k2⟩
        · refine .inl ⟨u, k1, hu'.trans (by simp only; omega) k2, ?_, ?_, fun h => ?_⟩
          · simp only [hdl] at k3
            have hmul : (c + 1) * w.blockInts = c * w.blockInts + w.blockInts := by ring
            rw [k3, hmul]
            omega
          · simp only at k4
            omega
          · simp only [hss] at k5
            exact k5 (hpp h)
        · exact .inr (.inl ⟨u, e, info, k1, hu'.trans (by simp only; omega) k2, k3⟩)
        · simp only [hsa, hss, hda, hdl] at k1
          exact .inr (.inr ⟨k1, k2⟩)
      · rw [h1]
        exact .inr (.inl ⟨s, _, _, rfl, UnpackedOnly.refl s, .inl ⟨rfl, hw⟩⟩)
      · rw [h1]
        exact .inr (.inl ⟨t, _, a, rfl, h2.toUnpackedOnly (by omega), .inr rfl⟩)
      · rw [h2]
        exact .inr (.inr ⟨by omega, rfl⟩)

/-- A selector's work is its blocks, then the cursor's advance and the end of DECODE if the output count is reached. -/
theorem runSelector_cases (w : Width) (count : Nat) (s : State) (hoc : s.oc ≤ s.dl.toNat) :
    (∃ t, runSelector w count s = .ok (endIfDone { t with sc := s.sc + 1 }) ∧ UnpackedOnly s t ∧
      t.oc = s.oc + min (count * w.blockInts) (s.dl.toNat - s.oc) ∧ s.pp ≤ t.pp ∧
      (s.pp ≤ s.selStart → t.pp ≤ s.selStart)) ∨
    (∃ t e info, runSelector w count s = .error (.raise t e info) ∧ UnpackedOnly s t ∧
      ((e = .payloadOverrun ∧ w ≠ .w0) ∨ e = .busError)) ∨
    ((2 ^ 32 < s.sa.toNat + s.selStart ∨ 2 ^ 32 < s.da.toNat + 4 * s.dl.toNat) ∧
      runSelector w count s = .error (.fault .outsideAddressSpace)) := by
  unfold runSelector
  rcases unpackBlocks_cases w count s hoc with ⟨t, h1, h2, h3⟩ | ⟨t, e, info, h1, h2⟩ | ⟨h1, h2⟩
  · rw [h1]
    refine .inl ⟨t, ?_, h2, h3⟩
    have hsc : t.sc = s.sc := by rw [h2.rest]
    simp only [hsc]
  · rw [h1]
    exact .inr (.inl ⟨t, e, info, rfl, h2⟩)
  · rw [h2]
    exact .inr (.inr ⟨h1, rfl⟩)

/-! ### Commands -/

/-- What a plan of ENCODE that stands is: the static checks passed, and it is the buffer of the source words, which
fits. -/
theorem planEncode_ok {s : State} {r : Encoded} (h : planEncode s = .ok r) :
    encodeChecks s = none ∧ r.bytes.length ≤ s.dl.toNat ∧
      ∃ src, readWords s s.sa.toNat s.sl.toNat = .ok src ∧ encodeBuffer s.params.promoteScope s.se src = .ok r := by
  unfold planEncode at h
  split at h
  · cases h
  · rename_i hc
    split at h
    · cases h
    · rename_i src hsrc
      split at h
      · cases h
      · rename_i r' hr
        split at h
        · cases h
        · cases h
          exact ⟨hc, by omega, src, hsrc, hr⟩

/-- How a plan of ENCODE fails: an error at a state that differs in the encoder's scratch alone, or the fault of a source
range past the top. -/
theorem planEncode_error {s : State} {e : Stop} (h : planEncode s = .error e) :
    (∃ t err info, e = .raise t err info ∧ (t = s ∨ ∃ r, t = withEncodeScratch s r)) ∨
      (encodeChecks s = none ∧ 2 ^ 32 < s.sa.toNat + 4 * s.sl.toNat ∧ e = .fault .outsideAddressSpace) := by
  unfold planEncode at h
  split at h
  · cases h
    exact .inl ⟨s, _, _, rfl, .inl rfl⟩
  · rename_i hc
    split at h
    · rename_i e' he
      cases h
      rcases readWords_error he with ⟨b, _, _, rfl⟩ | ⟨h1, rfl⟩
      · exact .inl ⟨s, _, _, rfl, .inl rfl⟩
      · exact .inr ⟨hc, h1, rfl⟩
    · split at h
      · cases h
        exact .inl ⟨s, _, _, rfl, .inl rfl⟩
      · rename_i r _
        split at h
        · cases h
          exact .inl ⟨_, _, _, rfl, .inr ⟨r, rfl⟩⟩
        · cases h

/-- What an ENCODE that completes did: it wrote the buffer's bytes from DA up, one at a time, and answered L/4 and S. -/
theorem runEncode_ok {s t : State} (h : runEncode s = .ok t) :
    ∃ r u, planEncode s = .ok r ∧ writeAll 1 (withEncodeScratch s r) s.da.toNat (r.bytes.map BitVec.toNat) = .ok u ∧
      WroteOnly s.da.toNat (s.da.toNat + r.bytes.length) (withEncodeScratch s r) u ∧
      t = complete u (r.bytes.length / 4) r.payload.length := by
  unfold runEncode at h
  split at h
  · cases h
  · rename_i r hr
    split at h
    · cases h
    · rename_i u hu
      cases h
      have h1 := writeAll_wroteOnly hu
      rw [List.length_map, Nat.one_mul] at h1
      exact ⟨r, u, hr, hu, h1, rfl⟩

/-- What a DECODE that begins its selector loop, or ends with an output count of 0, did. -/
theorem runDecode_ok {s u : State} (h : runDecode s = .ok u) :
    ∃ v t, decodeChecks s = none ∧ vbyteDec s s.sa.toNat (4 * s.sl.toNat) = .ok (v, t) ∧ t ≤ v ∧
      v ≤ 4 * s.sl.toNat ∧ u = endIfDone (enterUnpack s v t) := by
  unfold runDecode at h
  split at h
  · cases h
  · rename_i hc
    split at h
    · cases h
    · rename_i v t hv
      split at h
      · cases h
      · split at h
        · cases h
        · cases h
          exact ⟨v, t, hc, hv, by omega, by omega, rfl⟩

/-- How a DECODE fails before its selector loop: an error at its own state, or the fault of a source range past the
top. -/
theorem runDecode_error {s : State} {e : Stop} (h : runDecode s = .error e) :
    (∃ err info, e = .raise s err info) ∨
      (decodeChecks s = none ∧ 2 ^ 32 < s.sa.toNat + 4 * s.sl.toNat ∧ e = .fault .outsideAddressSpace) := by
  unfold runDecode at h
  split at h
  · cases h
    exact .inl ⟨_, _, rfl⟩
  · rename_i hc
    rcases vbyteDec_cases s s.sa.toNat (4 * s.sl.toNat) with
      ⟨v, t, h1, _⟩ | ⟨info, h1, _⟩ | ⟨a, h1, _⟩ | ⟨hlt, h1⟩ <;> rw [h1] at h <;> simp only at h
    · split at h
      · cases h
        exact .inl ⟨_, _, rfl⟩
      · split at h
        · cases h
          exact .inl ⟨_, _, rfl⟩
        · cases h
    · cases h
      exact .inl ⟨_, _, rfl⟩
    · cases h
      exact .inl ⟨_, _, rfl⟩
    · cases h
      exact .inr ⟨hc, hlt, rfl⟩

/-- Everything VBYTE_DEC can do. -/
theorem runVbyteDec_cases (s : State) :
    (∃ v t, runVbyteDec s = .ok (complete s v t) ∧ v < 2 ^ 32 ∧ 1 ≤ t ∧ t ≤ 5) ∨
      (∃ err info, runVbyteDec s = .error (.raise s err info)) := by
  unfold runVbyteDec
  split
  · exact .inr ⟨_, _, rfl⟩
  · rename_i hc
    have hle : s.sa.toNat + s.sl.toNat ≤ 2 ^ 32 := by
      by_contra hlt
      have hw : rangeWraps (byteSource s) = true := decide_eq_true (show 2 ^ 32 < (byteSource s).hi from by
        show 2 ^ 32 < s.sa.toNat + s.sl.toNat
        omega)
      rw [vbyteDecChecks, if_pos hw] at hc
      cases hc
    rcases vbyteDec_cases s s.sa.toNat s.sl.toNat with
      ⟨v, t, h1, h2, h3, h4, _⟩ | ⟨info, h1, _⟩ | ⟨a, h1, _⟩ | ⟨hlt, h1⟩ <;> rw [h1]
    · exact .inl ⟨v, t, rfl, h2, h3, h4⟩
    · exact .inr ⟨_, _, rfl⟩
    · exact .inr ⟨_, _, rfl⟩
    · omega

end Sys2Proof.Machine
end

