-- ==== Sys2Proof/Laws/Host.lean ====
section
/-! SUPPORT. What the host's actions do: the place of a register, resets and breaches over memory, and whose turn a step
is. -/

namespace Sys2Proof.Machine

/-! ### The place of a register -/

@[simp] theorem ofOffset?_offset (r : Reg) : Reg.ofOffset? r.offset = some r := by cases r <;> rfl

theorem offset_lt (r : Reg) : r.offset < 0x30 := by cases r <;> decide

theorem offset_mod_four (r : Reg) : r.offset % 4 = 0 := by cases r <;> rfl

/-- The register at an offset is the one whose offset it is. -/
theorem ofOffset?_some {off : Nat} {r : Reg} (h : Reg.ofOffset? off = some r) : r.offset = off := by
  have := List.find?_some h
  simpa using this

/-- A reserved offset names no register. -/
theorem ofOffset?_reserved {off : Nat} (h : 0x30 ≤ off) : Reg.ofOffset? off = none := by
  rcases hr : Reg.ofOffset? off with _ | r
  · rfl
  · have h1 := ofOffset?_some hr
    have h2 := offset_lt r
    omega

/-- A 32-bit access at a multiple of 4 inside the block reaches its offset. -/
theorem registerOffset?_of_base {p : Params} {off : Nat} (h : off < 256) (h4 : off % 4 = 0)
    (hb : p.regBase.toNat + off < 2 ^ 32) :
    registerOffset? p .bits32 (p.regBase + BitVec.ofNat 32 off) = some off := by
  have h1 : (p.regBase + BitVec.ofNat 32 off).toNat = p.regBase.toNat + off := by
    rw [BitVec.toNat_add, BitVec.toNat_ofNat]
    omega
  have h2 : p.regBase.toNat + off - p.regBase.toNat = off := by omega
  unfold registerOffset?
  rw [h1, h2, if_pos ⟨rfl, by omega, h, h4⟩]

/-- What an access that reaches the block is. -/
theorem registerOffset?_some {p : Params} {w : AccessWidth} {addr : Word} {off : Nat}
    (h : registerOffset? p w addr = some off) :
    w = .bits32 ∧ p.regBase.toNat ≤ addr.toNat ∧ off = addr.toNat - p.regBase.toNat ∧ off < 256 ∧ off % 4 = 0 := by
  unfold registerOffset? at h
  split at h
  · rename_i hc
    cases h
    exact ⟨hc.1, hc.2.1, rfl, hc.2.2.1, hc.2.2.2⟩
  · cases h

/-! ### Resets and breaches -/

@[simp] theorem hardwareReset_mem (s : State) : (hardwareReset s).mem = s.mem := rfl
@[simp] theorem hardwareReset_phase (s : State) : (hardwareReset s).phase = .idle := rfl
@[simp] theorem hardwareReset_params (s : State) : (hardwareReset s).params = s.params := rfl
@[simp] theorem hardwareReset_host (s : State) : (hardwareReset s).host = s.host := rfl
@[simp] theorem softReset_mem (s : State) : (softReset s).mem = abortedMemory s := rfl
@[simp] theorem softReset_phase (s : State) : (softReset s).phase = .idle := rfl
@[simp] theorem softReset_params (s : State) : (softReset s).params = s.params := rfl
@[simp] theorem softReset_host (s : State) : (softReset s).host = s.host := rfl

theorem abortedMemory_wf {s : State} (h : Memory.wf s.mem = true) : Memory.wf (abortedMemory s) = true := by
  unfold abortedMemory
  split
  · exact scrambleRange_wf h _ _
  · exact h

theorem read_abortedMemory_outside {s : State} {a : Nat} (h : ¬ (runningDest s).mem a) :
    Memory.read (abortedMemory s) a = Memory.read s.mem a := by
  unfold abortedMemory
  split
  · exact read_scrambleRange_outside _ _ h
  · rfl

/-- A soft reset of an idle block keeps memory. -/
theorem abortedMemory_idle {s : State} (h : s.busy = false) : abortedMemory s = s.mem := by
  simp [abortedMemory, h]

theorem raiseError_wf {s : State} {d : Range} {e : ErrCode} {info : Nat} (h : Memory.wf s.mem = true) :
    Memory.wf (raiseError s d e info).mem = true := by
  simp only [raiseError]
  split
  · exact scrambleRange_wf h _ _
  · exact h

theorem read_raiseError_outside {s : State} {d : Range} {e : ErrCode} {info a : Nat} (h : ¬ d.mem a) :
    Memory.read (raiseError s d e info).mem a = Memory.read s.mem a := by
  simp only [raiseError]
  split
  · exact read_scrambleRange_outside _ _ h
  · rfl

/-- Every byte of the destination range of a command that wrote is a free value after an error. -/
theorem read_raiseError_inside {s : State} {d : Range} {e : ErrCode} {info a : Nat} (hw : s.wrote = true)
    (hm : Memory.wf s.mem = true) (h : d.mem a) (ha : a < 2 ^ 32) :
    Memory.read (raiseError s d e info).mem a = Config.freeByte s.freeCtr a := by
  simp only [raiseError, hw, if_true]
  exact read_scrambleRange_inside hm _ h ha

theorem breachedMemory_wf {s : State} (h : Memory.wf s.mem = true) : Memory.wf (breachedMemory s) = true :=
  scrambleRange_wf (scrambleRange_wf h _ _) _ _

theorem read_breachedMemory_outside {s : State} {a : Nat} (h1 : ¬ (runningSource s).mem a)
    (h2 : ¬ (runningDest s).mem a) : Memory.read (breachedMemory s) a = Memory.read s.mem a :=
  (read_scrambleRange_outside _ _ h2).trans (read_scrambleRange_outside _ _ h1)

/-- Every byte of both ranges is a free value after a breach. -/
theorem read_breachedMemory_inside {s : State} {a : Nat} (hm : Memory.wf s.mem = true)
    (h : (runningSource s).mem a ∨ (runningDest s).mem a) (ha : a < 2 ^ 32) :
    Memory.read (breachedMemory s) a = Config.freeByte s.freeCtr a := by
  by_cases hd : (runningDest s).mem a
  · exact read_scrambleRange_inside (scrambleRange_wf hm _ _) _ hd ha
  · exact (read_scrambleRange_outside _ _ hd).trans (read_scrambleRange_inside hm _ (h.resolve_right hd) ha)

@[simp] theorem hostBreach_mem (s : State) : (hostBreach s).mem = breachedMemory s := by unfold hostBreach; split <;> rfl
@[simp] theorem hostBreach_unseen (s : State) : (hostBreach s).unseen = s.unseen := by unfold hostBreach; split <;> rfl
@[simp] theorem hostBreach_params (s : State) : (hostBreach s).params = s.params := by unfold hostBreach; split <;> rfl
@[simp] theorem hostBreach_host (s : State) : (hostBreach s).host = s.host := by unfold hostBreach; split <;> rfl

/-- What a breach does: while a command runs, its outcome becomes unspecified; after it, its results do. -/
theorem hostBreach_cases (s : State) :
    (s.busy = true ∧ hostBreach s = breach s) ∨ (s.busy = false ∧ hostBreach s = lateBreach s) := by
  unfold hostBreach
  split <;> simp_all

/-- A late breach keeps DONE and ERR apart, and ERRCODE a code of R154 exactly while ERR is 1. -/
theorem lateBreach_flags (s : State) : ¬ ((lateBreach s).done = true ∧ (lateBreach s).err = true) ∧
    ((lateBreach s).err = false → (lateBreach s).errcode = 0) ∧
    ((lateBreach s).err = true → 1 ≤ (lateBreach s).errcode.toNat ∧ (lateBreach s).errcode.toNat ≤ 12) := by
  have : (Config.freeWord s.freeCtr 2).toNat % 12 < 12 := Nat.mod_lt _ (by decide)
  simp only [lateBreach]
  cases Config.freeBit s.freeCtr <;> cases Config.freeBit (s.freeCtr + 1) <;> simp
  omega

theorem finishBreached_wf {s : State} (h : Memory.wf s.mem = true) : Memory.wf (finishBreached s).mem = true := by
  have := breachedMemory_wf h
  unfold finishBreached
  split <;> exact this

theorem read_finishBreached_outside {s : State} {a : Nat} (h1 : ¬ (runningSource s).mem a)
    (h2 : ¬ (runningDest s).mem a) : Memory.read (finishBreached s).mem a = Memory.read s.mem a := by
  have := read_breachedMemory_outside h1 h2
  unfold finishBreached
  split <;> exact this

/-! ### Turns -/

@[simp] theorem afterTurn_phase (s : State) : (afterTurn s).phase = s.phase := by unfold afterTurn; split <;> rfl
@[simp] theorem afterTurn_mem (s : State) : (afterTurn s).mem = s.mem := by unfold afterTurn; split <;> rfl
@[simp] theorem afterTurn_params (s : State) : (afterTurn s).params = s.params := by unfold afterTurn; split <;> rfl
@[simp] theorem afterTurn_op (s : State) : (afterTurn s).op = s.op := by unfold afterTurn; split <;> rfl
@[simp] theorem afterTurn_sa (s : State) : (afterTurn s).sa = s.sa := by unfold afterTurn; split <;> rfl
@[simp] theorem afterTurn_sl (s : State) : (afterTurn s).sl = s.sl := by unfold afterTurn; split <;> rfl
@[simp] theorem afterTurn_da (s : State) : (afterTurn s).da = s.da := by unfold afterTurn; split <;> rfl
@[simp] theorem afterTurn_dl (s : State) : (afterTurn s).dl = s.dl := by unfold afterTurn; split <;> rfl
@[simp] theorem afterTurn_wrote (s : State) : (afterTurn s).wrote = s.wrote := by unfold afterTurn; split <;> rfl
@[simp] theorem afterTurn_sc (s : State) : (afterTurn s).sc = s.sc := by unfold afterTurn; split <;> rfl
@[simp] theorem afterTurn_oc (s : State) : (afterTurn s).oc = s.oc := by unfold afterTurn; split <;> rfl
@[simp] theorem afterTurn_pp (s : State) : (afterTurn s).pp = s.pp := by unfold afterTurn; split <;> rfl
@[simp] theorem afterTurn_bufLen (s : State) : (afterTurn s).bufLen = s.bufLen := by unfold afterTurn; split <;> rfl
@[simp] theorem afterTurn_trlLen (s : State) : (afterTurn s).trlLen = s.trlLen := by unfold afterTurn; split <;> rfl
@[simp] theorem afterTurn_selStart (s : State) : (afterTurn s).selStart = s.selStart := by unfold afterTurn; split <;> rfl
@[simp] theorem afterTurn_unseen (s : State) : (afterTurn s).unseen = s.unseen := by unfold afterTurn; split <;> rfl
@[simp] theorem afterTurn_freeCtr (s : State) : (afterTurn s).freeCtr = s.freeCtr := by unfold afterTurn; split <;> rfl

/-- On the engine's turn the next turn is the engine's, at the state with the host's turn used up. -/
theorem nextTurn_engine {s : State} (h : EngineMoves s) : nextTurn s = engineTurn (afterTurn s) := by
  rcases h with h | ⟨rest, h⟩ | ⟨hb, rest, h⟩
  · simp [nextTurn, afterTurn, h]
  · simp [nextTurn, afterTurn, h]
  · simp [nextTurn, afterTurn, h, hb]

/-- What a step is: a host action's answer, or the engine's turn. -/
theorem nextTurn_cases (s : State) :
    (EngineMoves s ∧ nextTurn s = engineTurn (afterTurn s)) ∨
    ∃ a rest, s.host = a :: rest ∧ nextTurn s = .answer (match a with
      | .regWrite w addr v => hostRegWrite { s with host := rest } w addr v
      | .regRead w addr => hostRegRead { s with host := rest } w addr
      | .memWrite addr v => hostMemWrite { s with host := rest } addr.toNat v
      | .memRead addr => hostMemRead { s with host := rest } addr.toNat
      | .irqRead => hostIrqRead { s with host := rest }
      | .hwReset => .next (hardwareReset { s with host := rest })
      | .engineTurn => .next { s with host := rest }
      | .wait => .next (observe { s with host := rest } true)) := by
  rcases hh : s.host with _ | ⟨a, rest⟩
  · exact .inl ⟨.inl hh, nextTurn_engine (.inl hh)⟩
  · cases a with
    | engineTurn => exact .inl ⟨.inr (.inl ⟨rest, hh⟩), nextTurn_engine (.inr (.inl ⟨rest, hh⟩))⟩
    | wait =>
      cases hb : s.busy with
      | true => exact .inl ⟨.inr (.inr ⟨hb, rest, hh⟩), nextTurn_engine (.inr (.inr ⟨hb, rest, hh⟩))⟩
      | false => exact .inr ⟨.wait, rest, rfl, by simp [nextTurn, hh, hb]⟩
    | regWrite w addr v => exact .inr ⟨_, rest, rfl, by simp [nextTurn, hh]⟩
    | regRead w addr => exact .inr ⟨_, rest, rfl, by simp [nextTurn, hh]⟩
    | memWrite addr v => exact .inr ⟨_, rest, rfl, by simp [nextTurn, hh]⟩
    | memRead addr => exact .inr ⟨_, rest, rfl, by simp [nextTurn, hh]⟩
    | irqRead => exact .inr ⟨_, rest, rfl, by simp [nextTurn, hh]⟩
    | hwReset => exact .inr ⟨_, rest, rfl, by simp [nextTurn, hh]⟩

end Sys2Proof.Machine
end

