-- ==== Sys2Proof/Laws/Pack.lean ====
section
/-! SUPPORT. What the pack engine emits: the counts of a run's selectors, and a selector byte as a number. -/

namespace Sys2Proof.Machine

/-- R94: so many blocks are batches of 16, then the blocks left, if any. -/
theorem selectorCounts_eq {fuel nblk : Nat} (h : nblk ≤ fuel) :
    selectorCounts fuel nblk =
      List.replicate (nblk / 16) 16 ++ if nblk % 16 = 0 then [] else [nblk % 16] := by
  induction fuel generalizing nblk with
  | zero =>
    obtain rfl : nblk = 0 := by omega
    rfl
  | succ fuel ih =>
    simp only [selectorCounts]
    split
    · simp_all
    · by_cases h16 : nblk < 16
      · rw [ih (by omega)]
        simp [Nat.div_eq_of_lt h16, Nat.mod_eq_of_lt h16, Nat.min_eq_right (Nat.le_of_lt h16), *]
      · rw [ih (by omega), Nat.min_eq_left (by omega), show nblk / 16 = (nblk - 16) / 16 + 1 by omega,
          show (nblk - 16) % 16 = nblk % 16 by omega, List.replicate_succ, List.cons_append]

/-- R64, R65: a selector byte is 16 * TYPE + (16 - c). -/
theorem selectorByte_eq (w : Width) {c : Nat} (h : 1 ≤ c) (h' : c ≤ 16) :
    selectorByte w c = BitVec.ofNat 8 (16 * w.typeCode.toNat + (16 - c)) := by
  have : ∀ w : Width, ∀ k : Fin 16, selectorByte w (k.1 + 1) =
      BitVec.ofNat 8 (16 * w.typeCode.toNat + (16 - (k.1 + 1))) := by
    intro w; cases w <;> decide
  have := this w ⟨c - 1, by omega⟩
  rwa [show (⟨c - 1, by omega⟩ : Fin 16).1 + 1 = c by simp; omega] at this

end Sys2Proof.Machine
end

