-- ==== Sys2Proof/Laws/PerInstr.lean ====
section
/-! SUPPORT. The family stated of every instruction: the length of its encoding (R75). -/

namespace Sys2Proof.Laws.EncodedLength

/-- R75: a command word is four bytes, a selector is one. -/
def Statement (i : Instr) : Prop := (encode i).length = if i.countOperand = none then 4 else 1

theorem cmdEncode : Statement .cmdEncode := rfl
theorem cmdDecode : Statement .cmdDecode := rfl
theorem cmdClassify : Statement .cmdClassify := rfl
theorem cmdVbyteEnc : Statement .cmdVbyteEnc := rfl
theorem cmdVbyteDec : Statement .cmdVbyteDec := rfl
theorem selW0 (count : Nat) : Statement (.selW0 count) := rfl
theorem selW1 (count : Nat) : Statement (.selW1 count) := rfl
theorem selW2 (count : Nat) : Statement (.selW2 count) := rfl
theorem selW3 (count : Nat) : Statement (.selW3 count) := rfl
theorem selW4 (count : Nat) : Statement (.selW4 count) := rfl
theorem selW5 (count : Nat) : Statement (.selW5 count) := rfl
theorem selW6 (count : Nat) : Statement (.selW6 count) := rfl
theorem selW7 (count : Nat) : Statement (.selW7 count) := rfl
theorem selW8 (count : Nat) : Statement (.selW8 count) := rfl
theorem selW9 (count : Nat) : Statement (.selW9 count) := rfl
theorem selW10 (count : Nat) : Statement (.selW10 count) := rfl
theorem selW12 (count : Nat) : Statement (.selW12 count) := rfl
theorem selW16 (count : Nat) : Statement (.selW16 count) := rfl
theorem selW21 (count : Nat) : Statement (.selW21 count) := rfl
theorem selW32 (count : Nat) : Statement (.selW32 count) := rfl

end Sys2Proof.Laws.EncodedLength
end

