-- ==== Sys2Proof/Laws/Promoter.lean ====
section
/-! SUPPORT. For each operation of the promoter on the width array, once, what it does entry by entry. -/

namespace Sys2Proof.Machine

/-- A change of a window changes the entries of the window and no other. -/
theorem mapWindow_changed (f : Nat → Nat) {ws : List Nat} {p len : Nat} (h : p + len ≤ ws.length) :
    ChangedIn p len f ws (mapWindow f ws p len) := by
  refine ⟨by simp [mapWindow, window]; omega, fun i hi => ?_⟩
  simp only [mapWindow, window, List.getD_eq_getElem?_getD, List.append_assoc]
  have e1 : (List.take p ws).length = p := by simp; omega
  have e2 : (List.map f (List.take len (List.drop p ws))).length = len := by simp; omega
  by_cases h1 : i < p
  · rw [List.getElem?_append_left (by omega), if_neg (by omega)]
    simp [h1]
  · rw [List.getElem?_append_right (by omega), e1]
    by_cases h2 : i < p + len
    · rw [List.getElem?_append_left (by omega), if_pos ⟨by omega, h2⟩]
      simp [List.getElem?_drop, show p + (i - p) = i by omega, hi, show i - p < len by omega]
    · rw [List.getElem?_append_right (by omega), if_neg (by omega), e2, List.getElem?_drop]
      congr 2
      omega

/-- What stands in a window. -/
theorem mem_window {ws : List Nat} {p len x : Nat} :
    x ∈ window ws p len ↔ ∃ i, p ≤ i ∧ i < p + len ∧ ws[i]? = some x := by
  simp only [window, List.mem_iff_getElem?, List.getElem?_take, List.getElem?_drop]
  constructor
  · rintro ⟨i, hi⟩
    split at hi
    · exact ⟨p + i, by omega, by omega, hi⟩
    · cases hi
  · rintro ⟨i, h1, h2, h3⟩
    exact ⟨i - p, by rw [if_pos (by omega), show p + (i - p) = i by omega]; exact h3⟩

theorem le_maxEntry {l : List Nat} {x : Nat} (h : x ∈ l) : x ≤ maxEntry l := by
  induction l with
  | nil => cases h
  | cons a l ih =>
    simp only [maxEntry, List.foldr] at *
    rcases List.mem_cons.mp h with rfl | h'
    · omega
    · have := ih h'
      omega

theorem maxEntry_mem {l : List Nat} (h : l ≠ []) : maxEntry l ∈ l := by
  induction l with
  | nil => exact absurd rfl h
  | cons a l ih =>
    by_cases hl : l = []
    · simp [hl, maxEntry]
    · have := ih hl
      simp only [maxEntry, List.foldr] at *
      rcases le_total a (List.foldr max 0 l) with h1 | h1
      · rw [max_eq_right h1]
        exact List.mem_cons_of_mem _ this
      · rw [max_eq_left h1]
        exact List.mem_cons_self

/-- The short-end rule, as a relation and as a function. -/
theorem shortEnd_iff {rem m width : Nat} : ShortEnd rem m width ↔ shortEndWidth rem m = some width := by
  unfold shortEndWidth
  constructor
  · intro h
    cases h with
    | eight h1 h2 => rw [if_pos ⟨h1, h2⟩]
    | sixteen h1 h2 h3 => rw [if_neg h1, if_pos ⟨h2, h3⟩]
    | thirtyTwo h1 h2 h3 => rw [if_neg h1, if_neg h2, if_pos h3]
  · intro h
    split at h
    · cases h
      exact .eight (by omega) (by omega)
    · split at h
      · cases h
        exact .sixteen (by omega) (by omega) (by omega)
      · split at h
        · cases h
          exact .thirtyTwo (by omega) (by omega) (by omega)
        · cases h

end Sys2Proof.Machine
end

