-- ==== Sys2Proof/Tests/Slice0.lean ====
section
/-! SUPPORT. The model's own tests: well-formedness refusals, decoding of words written out from the spec, one step of each
instruction with expected values from 95_test_vectors.md and the rules' examples, and a witness that the hypotheses of each
statement can be met. -/

namespace Sys2Proof.Tests

open Sys2Proof Sys2Proof.Machine

/-! ## Well-formedness: an ill-formed term for each check -/

theorem test_check_refuses_count_zero : (Instr.selW8 0).check = .error .countZero := rfl
theorem test_check_refuses_count_seventeen : (Instr.selW8 17).check = .error .countAboveSixteen := rfl
theorem test_check_refuses_empty_run : (Line.run .w0 0).check = .error .runOfNoBlocks := rfl
theorem test_check_refuses_large_trailer : (Line.trailer (2 ^ 32)).check = .error .trailerTooLarge := by rfl
theorem test_check_admits_count_sixteen : (Instr.selW32 16).wellFormed = true := rfl

/-! ## Decoding, each word written out from R63 or R68 -/

theorem test_decode_cmdEncode : decode [0x01, 0x00, 0x00, 0x00] = .ok .cmdEncode := rfl
theorem test_decode_cmdDecode : decode [0x02, 0x00, 0x00, 0x00] = .ok .cmdDecode := rfl
theorem test_decode_cmdClassify : decode [0x03, 0x00, 0x00, 0x00] = .ok .cmdClassify := rfl
theorem test_decode_cmdVbyteEnc : decode [0x04, 0x00, 0x00, 0x00] = .ok .cmdVbyteEnc := rfl
theorem test_decode_cmdVbyteDec : decode [0x05, 0x00, 0x00, 0x00] = .ok .cmdVbyteDec := rfl
theorem test_decode_selW0 : decode [0b00001110] = .ok (.selW0 2) := rfl
theorem test_decode_selW1 : decode [0b00010000] = .ok (.selW1 16) := rfl
theorem test_decode_selW2 : decode [0b00101111] = .ok (.selW2 1) := rfl
theorem test_decode_selW3 : decode [0b00110001] = .ok (.selW3 15) := rfl
theorem test_decode_selW4 : decode [0b01001111] = .ok (.selW4 1) := rfl
theorem test_decode_selW5 : decode [0b01010010] = .ok (.selW5 14) := rfl
theorem test_decode_selW6 : decode [0b01100111] = .ok (.selW6 9) := rfl
theorem test_decode_selW7 : decode [0b01111111] = .ok (.selW7 1) := rfl
theorem test_decode_selW8 : decode [0b10001111] = .ok (.selW8 1) := rfl
theorem test_decode_selW9 : decode [0b10011000] = .ok (.selW9 8) := rfl
theorem test_decode_selW10 : decode [0b10100000] = .ok (.selW10 16) := rfl
theorem test_decode_selW12 : decode [0b10111101] = .ok (.selW12 3) := rfl
theorem test_decode_selW16 : decode [0b11001110] = .ok (.selW16 2) := rfl
theorem test_decode_selW21 : decode [0b11011111] = .ok (.selW21 1) := rfl
theorem test_decode_selW32 : decode [0b11101111] = .ok (.selW32 1) := rfl
theorem test_decode_reserved_selector : decode [0xF0] = .error .reservedSelector := rfl
theorem test_decode_command_zero : decode [0x00, 0x00, 0x00, 0x00] = .error .illegalCommand := rfl
theorem test_decode_command_0x11 : decode [0x11, 0x00, 0x00, 0x00] = .error .illegalCommand := rfl
/-- R76's example: `RUN w0, 17`. -/
theorem test_run_expands : lineBytes (.run .w0 17) = [0x00, 0x0F] := rfl
/-- The listing of program P3 of 95_test_vectors.md, less its payload. -/
theorem test_assemble : assemble [.run .w0 17, .sel .w7 1, .pad 0, .trailer 4] = .ok [0x00, 0x0F, 0x7F, 0x84] := rfl

/-! ## Helpers -/

/-- Memory holding bytes from an address up. -/
def place (m : Memory) : Nat → List Byte → Memory
  | _, [] => m
  | a, b :: bs => place (Memory.write m a b) (a + 1) bs

/-- A started command with its latched operands, over a memory. -/
def started (op sa sl da dl ar : Word) (m : Memory) : State :=
  { State.reset with phase := .started, op := op, cmd := op, sa := sa, sl := sl, da := da, dl := dl, ar := ar, se := true, mem := m }

/-- A DECODE in its selector loop over a buffer at 0x100 whose payload is given, with one selector byte, `dl` outputs at
0x1000, three padding bytes or fewer and a trailer of one byte. -/
def looping (payload : List Byte) (sel : Byte) (dl : Word) : State :=
  let S := payload.length
  { State.reset with
    phase := .unpack, op := 2, cmd := 2, sa := 0x100, sl := BitVec.ofNat 32 ((S + 5) / 4), da := 0x1000, dl := dl
    bufLen := 4 * ((S + 5) / 4), trlLen := 1, trlVal := 4 * ((S + 5) / 4) - S, selStart := S, sc := S
    mem := place [] 0x100 (payload ++ [sel]) }

/-- What the tests look at. -/
structure View where
  status : Word
  errinfo : Word
  result0 : Word
  result1 : Word
deriving DecidableEq, Repr

/-- The view of a next state. -/
def view : Host.Outcome State Fault Refusal → Option View
  | .next t => some ⟨t.statusWord, t.errinfo, t.result0, t.result1⟩
  | _ => none

/-- So many words of memory of a next state. -/
def words (a n : Nat) : Host.Outcome State Fault Refusal → List Nat
  | .next t => (List.range n).map (fun i => wordAt t.mem (a + 4 * i))
  | _ => []

/-- So many bytes of memory of a next state. -/
def bytes (a n : Nat) : Host.Outcome State Fault Refusal → List Byte
  | .next t => (List.range n).map (fun i => Memory.read t.mem (a + i))
  | _ => []

/-! ## One step of each instruction -/

/-- R151's example. -/
theorem test_classify_70000 : view (step (started 3 0 0 0 0 70000 [])) = some ⟨2, 0, 21, 13⟩ := by decide
/-- 90_conflicts.md C1: 0 has width 1. -/
theorem test_classify_zero : view (step (started 3 0 0 0 0 0 [])) = some ⟨2, 0, 1, 1⟩ := by decide
/-- R152's example. -/
theorem test_vbyte_enc_300 : view (step (started 4 0 0 0 0 300 [])) = some ⟨2, 0, 0x2AC, 0x200⟩ := by decide
/-- 95_test_vectors.md 2.6 row 15. -/
theorem test_vbyte_enc_max : view (step (started 4 0 0 0 0 0xFFFFFFFF [])) = some ⟨2, 0, 0x7F7F7FFF, 0x50F⟩ := by decide
/-- 95_test_vectors.md 2.6 row 16. -/
theorem test_vbyte_dec_300 :
    view (step (started 5 0x4001 2 0 0 0 (place [] 0x4001 [0xAC, 0x02]))) = some ⟨2, 0, 300, 2⟩ := by decide
/-- 95_test_vectors.md 2.5: the value 2^32 is too large. -/
theorem test_vbyte_dec_too_large :
    view (step (started 5 0x4001 5 0 0 0 (place [] 0x4001 [0xFF, 0x7F, 0x7F, 0x7F, 0x10]))) = some ⟨0x704, 3, 0, 0⟩ := by decide

/-- Scenario B: four fives. -/
def fourFives (dl : Word) : State :=
  started 1 0x1000 4 0x2000 dl 0 (place [] 0x1000 [5, 0, 0, 0, 5, 0, 0, 0, 5, 0, 0, 0, 5, 0, 0, 0])

theorem test_encode_scenario_B_results : view (step (fourFives 64)) = some ⟨2, 0, 2, 4⟩ := by decide
theorem test_encode_scenario_B_buffer : bytes 0x2000 9 (step (fourFives 64)) = [5, 5, 5, 5, 0x8F, 0, 0, 0x84, 0] := by decide

/-- Scenario B decoded: the trailer step, then the selector's step. -/
theorem test_decode_enters_the_loop :
    (match step (started 2 0x2000 2 0x3000 4 0 (place [] 0x2000 [5, 5, 5, 5, 0x8F, 0, 0, 0x84])) with
      | .next t => (t.phase, t.sc, t.selStart, t.trlVal, t.trlLen, t.bufLen)
      | _ => (.idle, 0, 0, 0, 0, 0)) = (.unpack, 4, 4, 4, 1, 8) := by decide
theorem test_decode_of_no_word : view (step (started 2 0x2000 0 0x3000 0 0 [])) = some ⟨0x704, 1, 0, 0⟩ := by decide

theorem test_selW0 : words 0x1000 3 (step (looping [] 0x0F 3)) = [1, 1, 1] := by decide
/-- R124's example block, its first eight values. -/
theorem test_selW1 : words 0x1000 8 (step (looping [0, 0, 0, 0, 0xFF, 0xFF, 0xFF, 0xFF, 0, 0, 0, 0, 0xFF, 0xFF, 0xFF, 0xFF] 0x1F 8))
    = [0, 1, 0, 1, 0, 1, 0, 1] := by decide
/-- R125's example block. -/
theorem test_selW2 : words 0x1000 8 (step (looping [0, 0, 0, 0, 0x55, 0x55, 0x55, 0x55, 0xAA, 0xAA, 0xAA, 0xAA, 0xFF, 0xFF, 0xFF, 0xFF] 0x2F 8))
    = [0, 1, 2, 3, 0, 1, 2, 3] := by decide
/-- R126's example block. -/
theorem test_selW3 : words 0x1000 10 (step (looping [0x20, 0x08, 0x82, 0x20, 0x69, 0x9A, 0xA6, 0x29, 0xB2, 0x2C, 0xCB, 0x32, 0xFB, 0xBE, 0xEF, 0x3B] 0x3F 10))
    = [0, 1, 2, 3, 4, 5, 6, 7, 0, 1] := by decide
/-- R127's example block. -/
theorem test_selW4 : words 0x1000 10 (step (looping [0x40, 0xC8, 0x40, 0xC8, 0x51, 0xD9, 0x51, 0xD9, 0x62, 0xEA, 0x62, 0xEA, 0x73, 0xFB, 0x73, 0xFB] 0x4F 10))
    = [0, 1, 2, 3, 4, 5, 6, 7, 8, 9] := by decide
/-- R128's example block. -/
theorem test_selW5 : words 0x1000 24 (step (looping [0x80, 0x20, 0x06, 0x29, 0xA1, 0xA4, 0x16, 0x2B, 0xC2, 0x28, 0x27, 0x2D, 0xE3, 0xAC, 0x37, 0x2F] 0x5F 24))
    = List.range 24 := by decide
/-- R129's example block. -/
theorem test_selW6 : words 0x1000 20 (step (looping [0x00, 0x81, 0x30, 0x10, 0x41, 0x91, 0x34, 0x11, 0x82, 0xA1, 0x38, 0x12, 0xC3, 0xB1, 0x3C, 0x13] 0x6F 20))
    = List.range 20 := by decide
/-- R130's example block; row 4 straddles the units. -/
theorem test_selW7 : words 0x1000 24 (step (looping [0x00, 0x02, 0x82, 0x01, 0x81, 0x42, 0xA2, 0x11, 0x02, 0x83, 0xC2, 0x21, 0x83, 0xC3, 0xE2, 0x31,
      0xA1, 0x60, 0x38, 0x20, 0xA9, 0x64, 0x3A, 0x21, 0xB1, 0x68, 0x3C, 0x22, 0xB9, 0x6C, 0x3E, 0x23] 0x7F 24))
    = List.range 24 := by decide
/-- Scenario B's selector. -/
theorem test_selW8 : words 0x1000 4 (step (looping [5, 6, 7, 0xFF] 0x8F 4)) = [5, 6, 7, 255] := by decide
/-- 95_test_vectors.md 2.4: four payload bytes are too few for five values. -/
theorem test_selW8_overrun : view (step (looping [5, 5, 5, 5] 0x8F 5)) = some ⟨0xA04, 0, 0, 0⟩ := by decide
/-- R132's example block; row 3 straddles the units. -/
theorem test_selW9 : words 0x1000 20 (step (looping [0x00, 0x08, 0x20, 0x60, 0x01, 0x0A, 0x24, 0x68, 0x02, 0x0C, 0x28, 0x70, 0x03, 0x0E, 0x2C, 0x78,
      0x00, 0x81, 0x02, 0x06, 0x10, 0xA1, 0x42, 0x06, 0x20, 0xC1, 0x82, 0x06, 0x30, 0xE1, 0xC2, 0x06] 0x9F 20))
    = List.range 20 := by decide
/-- R133's example block. -/
theorem test_selW10 : words 0x1000 12 (step (looping [0x00, 0x10, 0x80, 0x00, 0x01, 0x14, 0x90, 0x00, 0x02, 0x18, 0xA0, 0x00, 0x03, 0x1C, 0xB0, 0x00] 0xAF 12))
    = List.range 12 := by decide
/-- R134's example block; row 2 straddles the units. -/
theorem test_selW12 : words 0x1000 20 (step (looping [0x00, 0x40, 0x00, 0x08, 0x01, 0x50, 0x00, 0x09, 0x02, 0x60, 0x00, 0x0A, 0x03, 0x70, 0x00, 0x0B,
      0xC0, 0x00, 0x10, 0x00, 0xD0, 0x00, 0x11, 0x00, 0xE0, 0x00, 0x12, 0x00, 0xF0, 0x00, 0x13, 0x00] 0xBF 20))
    = List.range 20 := by decide
/-- R135's example block: two of its eight values, and what they consume. -/
theorem test_selW16 : view (step (looping [0x00, 0x00, 0x01, 0x00, 0x02, 0x00] 0xCF 2)) = some ⟨2, 0, 4, 6⟩ := by decide
/-- Scenario D's width-21 block: 70000 is its field 4. -/
theorem test_selW21 : words 0x1000 6 (step (looping [0x02, 0x00, 0x00, 0x2E, 0x02, 0, 0, 0, 0x02, 0, 0, 0, 0x02, 0, 0, 0,
      0x22, 0, 0, 0, 0, 0, 0, 0, 0, 0, 0, 0, 0, 0, 0, 0] 0xDF 6)) = [2, 2, 2, 2, 70000, 0] := by decide
/-- R137: values are stored whole. -/
theorem test_selW32 : words 0x1000 2 (step (looping [0x70, 0x11, 0x01, 0x00, 0xFF, 0xFF, 0xFF, 0xFF] 0xEF 2))
    = [70000, 0xFFFFFFFF] := by decide
/-- 95_test_vectors.md 2.6 row 4: the source's alignment is checked first. -/
theorem test_encode_misaligned : view (step (started 1 0x1002 4 0x2001 64 0 [])) = some ⟨0x204, 1, 0, 0⟩ := by decide
/-- 95_test_vectors.md 2.6 row 12. -/
theorem test_decode_overlap : view (step (started 2 0x2000 2 0x2004 4 0 [])) = some ⟨0x404, 0, 0, 0⟩ := by decide
/-- 95_test_vectors.md 2.6 row 2. -/
theorem test_illegal_command : view (step (started 6 0 0 0 0 0 [])) = some ⟨0x104, 6, 0, 0⟩ := by decide
/-- 95_test_vectors.md 2.6, register vectors: a soft reset. -/
theorem test_soft_reset :
    (match step { State.reset with ie := true, arg := 7, host := [hostWR 0 .ctrl 0xFFFFFFFE] } with
      | .next t => (t.ctrlWord, t.arg)
      | _ => (0, 0)) = (2, 0) := by decide

/-! ## Witnesses: the hypotheses of each statement can be met, each clause at a boundary of its range -/

/-- With no BUS_ERR range no address answers with an error. -/
theorem quiet (r : Range) : NoBusErr Params.default r := fun _ _ => rfl

/-- The block with host actions pending. -/
def hosted (s : State) (a : HostAction) : State := { s with host := [a] }

/-- A register write at an offset of the block. -/
def wrAt (off : Nat) (v : Word) : HostAction := .regWrite .bits32 (State.reset.params.regBase + BitVec.ofNat 32 off) v

/-- A DECODE in its selector loop with one selector of four eight-bit values to unpack. -/
def unpacking : State := looping [5, 6, 7, 0xFF] 0x8F 4

/-- A DECODE about to begin on Scenario B's buffer. -/
def decoding (dl : Word) : State := started 2 0x2000 2 0x3000 dl 0 (place [] 0x2000 [5, 5, 5, 5, 0x8F, 0, 0, 0x84])

/-- A platform whose address 0x102 answers with a bus error. -/
def brokenAt102 : State := { unpacking with params := { Params.default with busErr := [(0x102, 0x103)] } }

theorem witness_DecodeOfEncodeIsTheInstruction :
    (Instr.selW8 1).wellFormed = true ∧ (Instr.selW32 16).wellFormed = true ∧ Instr.cmdDecode.wellFormed = true := by decide
theorem witness_EncodeOfDecodeIsTheBytes : decode [0xE0] = .ok (.selW32 16) ∧ decode [5, 0, 0, 0] = .ok .cmdVbyteDec := ⟨rfl, rfl⟩
theorem witness_LegalCommandWordsAreOneToFive : decodeCommand 1 = .ok .cmdEncode ∧ decodeCommand 5 = .ok .cmdVbyteDec ∧
    decodeCommand 0 = .error .illegalCommand ∧ decodeCommand 6 = .error .illegalCommand := ⟨rfl, rfl, rfl, rfl⟩
theorem witness_SelectorByteFields : decodeSelector 0xEF = .ok (Instr.sel .w32 1) ∧ decodeSelector 0xF0 = .error .reservedSelector :=
  ⟨rfl, rfl⟩
theorem witness_RunExpandsToTheEmittedSelectors : (1 : Nat) ≤ 1 ∧ expandRun .w5 1 = [.selW5 1] := by decide
theorem witness_StepRunsTheDecodedInstruction_command : EngineMoves (started 3 0 0 0 0 7 []) ∧
    (started 3 0 0 0 0 7 []).phase = .started ∧ decode (leBytes 4 (started 3 0 0 0 0 7 []).op.toNat) = .ok .cmdClassify :=
  ⟨.inl rfl, rfl, rfl⟩
theorem witness_StepRunsTheDecodedInstruction_selector : EngineMoves unpacking ∧ unpacking.phase = .unpack ∧
    unpacking.oc < unpacking.dl.toNat ∧ unpacking.sc < unpacking.bufLen - unpacking.trlLen ∧
    unpacking.sa.toNat + unpacking.sc < 2 ^ 32 ∧ busErrAt unpacking.params (unpacking.sa.toNat + unpacking.sc) = false ∧
    decode [Memory.read unpacking.mem (unpacking.sa.toNat + unpacking.sc)] = .ok (.selW8 1) :=
  ⟨.inl rfl, rfl, by decide, by decide, by decide, rfl, rfl⟩
theorem witness_IllegalCommandWordEndsWithIllegalCmd_zero : let s := started 0 0 0 0 0 0 []
    EngineMoves s ∧ s.phase = .started ∧ s.wrote = false ∧ s.op.toNat = 0 := ⟨.inl rfl, rfl, rfl, rfl⟩
theorem witness_IllegalCommandWordEndsWithIllegalCmd_six : let s := started 6 0 0 0 0 0 []
    EngineMoves s ∧ s.phase = .started ∧ s.wrote = false ∧ 5 < s.op.toNat := ⟨.inl rfl, rfl, rfl, by decide⟩
theorem witness_SelectorFetchErrors_overrun : let s := { unpacking with sc := 7 }
    EngineMoves s ∧ s.phase = .unpack ∧ s.oc < s.dl.toNat ∧ s.bufLen - s.trlLen ≤ s.sc := ⟨.inl rfl, rfl, by decide, by decide⟩
theorem witness_SelectorFetchErrors_reserved : let s := { unpacking with sc := 6, mem := place [] 0x106 [0xF0] }
    EngineMoves s ∧ s.phase = .unpack ∧ s.oc < s.dl.toNat ∧ s.sc < s.bufLen - s.trlLen ∧ s.sa.toNat + s.sc < 2 ^ 32 ∧
    busErrAt s.params (s.sa.toNat + s.sc) = false ∧ 0xF0 ≤ (Memory.read s.mem (s.sa.toNat + s.sc)).toNat :=
  ⟨.inl rfl, rfl, by decide, by decide, by decide, rfl, by decide⟩
theorem witness_SelectorFetchErrors_busError : let s := { unpacking with params := { Params.default with busErr := [(0x104, 0x105)] } }
    EngineMoves s ∧ s.phase = .unpack ∧ s.oc < s.dl.toNat ∧ s.sc < s.bufLen - s.trlLen ∧ s.sa.toNat + s.sc < 2 ^ 32 ∧
    busErrAt s.params (s.sa.toNat + s.sc) = true ∧ view (step s) = some ⟨0xC04, 0x104, 0, 0⟩ :=
  ⟨.inl rfl, rfl, by decide, by decide, by decide, rfl, by decide⟩
theorem witness_RegisterReadHasNoSideEffect : ∀ i ∈ [0, 2, 11, 12, 63],
    let s := hosted State.reset (.regRead .bits32 (State.reset.params.regBase + BitVec.ofNat 32 (4 * i)))
    i < 64 ∧ s.params.regBase.toNat + 4 * i < 2 ^ 32 ∧
    s.host = .regRead .bits32 (s.params.regBase + BitVec.ofNat 32 (4 * i)) :: [] := by decide
theorem witness_OperandRegisterWriteReadsBack : ∀ r ∈ operandRegs, let s := hosted unpacking (wrAt r.offset 9)
    s.params.regBase.toNat + 256 ≤ 2 ^ 32 ∧ s.host = .regWrite .bits32 (s.params.regBase + BitVec.ofNat 32 r.offset) 9 :: [] := by decide
theorem witness_OperandRegisterWriteReadsBack_offsets : ∀ off ∈ [0x10, 0x14, 0x18, 0x1C, 0x20],
    let s := hosted unpacking (wrAt off 9)
    s.params.regBase.toNat + 256 ≤ 2 ^ 32 ∧ s.host = .regWrite .bits32 (s.params.regBase + BitVec.ofNat 32 off) 9 :: [] := by decide
theorem witness_ReservedAndReadOnlyWritesIgnored : ∀ off ∈ [0x30, 0xFC, 0x00, 0x24, 0x28, 0x2C],
    let s := hosted unpacking (wrAt off 9)
    off < 256 ∧ off % 4 = 0 ∧ s.params.regBase.toNat + off < 2 ^ 32 ∧ (0x30 ≤ off ∨ off = 0x00 ∨ off = 0x24 ∨ off = 0x28 ∨ off = 0x2C) ∧
    s.host = .regWrite .bits32 (s.params.regBase + BitVec.ofNat 32 off) 9 :: [] := by decide
theorem witness_StatusWriteClearsWrittenBits : let s := hosted State.reset (wrAt 8 0xE)
    s.params.regBase.toNat + 256 ≤ 2 ^ 32 ∧ s.host = .regWrite .bits32 (s.params.regBase + 8) 0xE :: [] := by decide
theorem witness_CmdWriteWhileIdleStartsTheCommand : let s := hosted State.reset (wrAt 12 3)
    s.params.regBase.toNat + 256 ≤ 2 ^ 32 ∧ s.busy = false ∧ s.host = .regWrite .bits32 (s.params.regBase + 12) 3 :: [] := by decide
theorem witness_CmdWriteWhileBusyIsLost : let s := hosted unpacking (wrAt 12 3)
    s.params.regBase.toNat + 256 ≤ 2 ^ 32 ∧ s.busy = true ∧ s.host = .regWrite .bits32 (s.params.regBase + 12) 3 :: [] := by decide
theorem witness_CtrlWriteAndSoftReset_reset : let s := hosted unpacking (wrAt 4 0x80000000)
    s.params.regBase.toNat + 256 ≤ 2 ^ 32 ∧ s.host = .regWrite .bits32 (s.params.regBase + 4) 0x80000000 :: [] ∧
    (0x80000000 : Word).getLsbD 31 = true ∧ s.busy = true ∧ s.wrote = false ∧ s.phase ≠ .started := by decide
/-- A soft reset of an ENCODE about to step, whose progress is open. -/
theorem witness_CtrlWriteAndSoftReset_encode : let s := hosted (fourFives 8) (wrAt 4 0x80000000)
    s.params.regBase.toNat + 256 ≤ 2 ^ 32 ∧ s.host = .regWrite .bits32 (s.params.regBase + 4) 0x80000000 :: [] ∧
    s.busy = true ∧ s.wrote = false ∧ s.phase = .started ∧ s.op = 1 ∧ ¬ (runningDest s).mem 0x2008 := by decide
/-- A soft reset of a DECODE that has written. -/
theorem witness_CtrlWriteAndSoftReset_wrote : let s := hosted { unpacking with wrote := true } (wrAt 4 0x80000000)
    s.params.regBase.toNat + 256 ≤ 2 ^ 32 ∧ s.host = .regWrite .bits32 (s.params.regBase + 4) 0x80000000 :: [] ∧
    s.busy = true ∧ s.wrote = true ∧ ¬ (runningDest s).mem 0x1010 := by decide
theorem witness_CtrlWriteAndSoftReset_ordinary : let s := hosted State.reset (wrAt 4 0x7FFFFFFF)
    s.params.regBase.toNat + 256 ≤ 2 ^ 32 ∧ s.host = .regWrite .bits32 (s.params.regBase + 4) 0x7FFFFFFF :: [] ∧
    (0x7FFFFFFF : Word).getLsbD 31 = false ∧ s.busy = false := by decide
theorem witness_HardwareResetAndIdleWait :
    (hosted { unpacking with wrote := true } .hwReset).host = .hwReset :: [] ∧ State.reset.host = [] ∧
    State.reset.phase = .idle := ⟨rfl, rfl, rfl⟩
theorem witness_HostMemoryWritesAndBreaches_outside : let s := hosted unpacking (.memWrite 0xFF 1)
    s.host = .memWrite 0xFF 1 :: [] ∧ busErrAt s.params (0xFF : Word).toNat = false ∧
    ¬ (runningSource s).mem (0xFF : Word).toNat ∧ ¬ (runningDest s).mem (0xFF : Word).toNat := by decide
theorem witness_HostMemoryWritesAndBreaches_inside : let s := hosted unpacking (.memWrite 0x100 1)
    s.host = .memWrite 0x100 1 :: [] ∧ busErrAt s.params (0x100 : Word).toNat = false ∧ s.busy = true ∧
    (runningSource s).mem (0x100 : Word).toNat := by decide
/-- A host read of the running command's source, of the byte past its destination, and of the destination's last byte. -/
theorem witness_HostMemoryWritesAndBreaches_read :
    (hosted unpacking (.memRead 0x100)).host = .memRead 0x100 :: [] ∧ unpacking.busy = true ∧
    busErrAt unpacking.params 0x100 = false ∧ (runningSource unpacking).mem 0x100 ∧ ¬ (runningDest unpacking).mem 0x100 ∧
    ¬ (runningDest unpacking).mem 0x1010 ∧ (runningDest unpacking).mem 0x100F := by decide
theorem witness_HostMemoryWritesAndBreaches_refused : let s := hosted brokenAt102 (.memRead 0x102)
    s.host = .memRead 0x102 :: [] ∧ busErrAt s.params (0x102 : Word).toNat = true := by decide
/-- After the completion and before the host has seen it: a write to the source and a read of the destination are breaches of
a completed command; a write outside both ranges, a read of STATUS, the end of WAIT and an IRQ that is 1 are not. -/
def completedUnseen (a : HostAction) : State := { hosted unpacking a with phase := .idle, done := true, ie := true, unseen := true }
theorem witness_HostMemoryWritesAndBreaches_completed : let s := completedUnseen (.memWrite 0x107 1)
    s.host = .memWrite 0x107 1 :: [] ∧ s.guarded = true ∧ s.busy = false ∧ busErrAt s.params (0x107 : Word).toNat = false ∧
    (runningSource s).mem (0x107 : Word).toNat ∧ ¬ (runningSource s).mem 0x108 ∧ (runningDest s).mem 0x100F ∧
    Memory.wf s.mem = true := by decide
def unseenAfter (a : HostAction) : Option Bool :=
  match step (completedUnseen a) with
  | .next t => some t.unseen
  | _ => none
theorem test_observations_of_idle :
    unseenAfter .wait = some false ∧ unseenAfter .irqRead = some false ∧ unseenAfter (.regRead .bits32 8) = some false ∧
    unseenAfter (.regRead .bits32 0x24) = some true ∧ unseenAfter .engineTurn = some true ∧
    unseenAfter (.memWrite 0xFF 1) = some true ∧ unseenAfter .hwReset = some false := by decide
theorem test_status_read_while_busy_observes_nothing :
    (match step { hosted unpacking (.regRead .bits32 8) with unseen := true } with
      | .next t => (t.unseen, t.rdata)
      | _ => (false, 0)) = (true, 1) := by decide
theorem witness_HostMemoryWritesAndBreaches_breached : let s := { unpacking with phase := .breached }
    s.phase = .breached ∧ s.done = false ∧ s.err = false ∧ s.host = [] := ⟨rfl, rfl, rfl, rfl⟩
theorem witness_OtherRegisterAccessesAreRefused : AccessWidth.bits16 ≠ .bits32 ∧
    ((1 : Word).toNat - State.reset.params.regBase.toNat) % 4 ≠ 0 ∧
    (hosted State.reset (.regRead .bits32 1)).host = .regRead .bits32 1 :: [] := by decide
theorem witness_VbyteDecCompletesOnATrailer : let s := started 5 0xFFFFFFFB 5 0 0 0 (place [] 0xFFFFFFFB [0xFF, 0x7F, 0x7F, 0x7F, 0x0F])
    s.sa.toNat + s.sl.toNat ≤ 2 ^ 32 ∧ NoBusErr s.params (byteSource s) ∧ TrailerAt s.mem s.sa.toNat s.sl.toNat 5 ∧
    trailerValue s.mem s.sa.toNat s.sl.toNat 5 < 2 ^ 32 :=
  ⟨by decide, quiet _, ⟨by decide, by decide, by decide, by decide, fun i h1 h2 => by
    have : i = 1 ∨ i = 2 ∨ i = 3 ∨ i = 4 := by omega
    rcases this with rfl | rfl | rfl | rfl <;> decide⟩, by decide⟩
theorem witness_VbyteDecErrors_wraps : let s := started 5 0xFFFFFFFF 2 0 0 0 []
    s.wrote = false ∧ 2 ^ 32 < s.sa.toNat + s.sl.toNat := by decide
theorem witness_VbyteDecErrors_unterminated : let s := started 5 0x4001 5 0 0 0 []
    s.wrote = false ∧ s.sa.toNat + s.sl.toNat ≤ 2 ^ 32 ∧ NoBusErr s.params (byteSource s) ∧ 5 ≤ s.sl.toNat ∧
    ∀ i, s.sl.toNat - 5 ≤ i → i < s.sl.toNat → (Memory.read s.mem (s.sa.toNat + i)).toNat < 128 :=
  ⟨rfl, by decide, quiet _, by decide, fun _ _ _ => by show (0 : Nat) < 128; decide⟩
theorem witness_VbyteDecErrors_short : let s := started 5 0x4001 4 0 0 0 []
    s.sa.toNat + s.sl.toNat ≤ 2 ^ 32 ∧ s.sl.toNat < 5 ∧ ∀ i, i < s.sl.toNat → (Memory.read s.mem (s.sa.toNat + i)).toNat < 128 :=
  ⟨by decide, by decide, fun _ _ => by show (0 : Nat) < 128; decide⟩
theorem witness_VbyteDecErrors_large : let s := started 5 0x4001 5 0 0 0 (place [] 0x4001 [0x80, 0, 0, 0, 0x10])
    s.sa.toNat + s.sl.toNat ≤ 2 ^ 32 ∧ TrailerAt s.mem s.sa.toNat s.sl.toNat 5 ∧
    2 ^ 32 ≤ trailerValue s.mem s.sa.toNat s.sl.toNat 5 :=
  ⟨by decide, ⟨by decide, by decide, by decide, by decide, fun i h1 h2 => by
    have : i = 1 ∨ i = 2 ∨ i = 3 ∨ i = 4 := by omega
    rcases this with rfl | rfl | rfl | rfl <;> decide⟩, by decide⟩
theorem witness_TrailerRoundTrip : (300 : Nat) < 2 ^ 32 ∧ vlen 300 ≤ 3 ∧ 0x4001 + 3 ≤ 2 ^ 32 ∧
    ∀ i, i < 2 → Memory.read (place [] 0x4001 [0x77, 0xAC, 0x02]) (0x4001 + (3 - vlen 300) + i) = (vbyteEnc 300).getD i 0 := by decide
/-- One state for each branch of ENCODE's static checks, at the edge of it, and one that passes with ranges that touch. -/
theorem witness_EncodeStaticCheckOrder :
    encodeChecks (started 1 0x1003 4 0x2003 64 0 []) = some (.misaligned, 1) ∧
    encodeChecks (started 1 0x1000 0x10000001 0x2001 64 0 []) = some (.misaligned, 2) ∧
    encodeChecks (started 1 0xFFFFFFFC 0x10000001 0x2000 64 0 []) = some (.tooLong, 0) ∧
    encodeChecks (started 1 0xFFFFFFFC 2 0xFFFFFFFC 5 0 []) = some (.addrRange, 1) ∧
    encodeChecks (started 1 0xFFFFFFFC 1 0xFFFFFFFC 5 0 []) = some (.addrRange, 2) ∧
    encodeChecks (started 1 0x1000 4 0x0FFC 5 0 []) = some (.overlap, 0) ∧
    encodeChecks (started 1 0x1000 4 0x0FFC 4 0 []) = none ∧ (started 1 0x1000 4 0x0FFC 4 0 []).wrote = false := by decide
theorem admitted_fourFives (dl : Word) (h : dl.toNat ≤ 2 ^ 31) : EncodeAdmitted (fourFives dl) :=
  ⟨by show 0x1000 % 4 = 0; decide, by show 0x2000 % 4 = 0; decide, by show 4 ≤ 2 ^ 28; decide,
    by show 0x1000 + 4 * 4 ≤ 2 ^ 32; decide, by show 0x2000 + dl.toNat ≤ 2 ^ 32; omega,
    by rintro ⟨_, _, _, h4⟩; exact absurd h4 (by show ¬ 0x2000 < 0x1000 + 4 * 4; decide)⟩
/-- The buffer of four fives is 8 bytes: a capacity of 8 takes it, 7 does not. -/
theorem witness_EncodeWritesItsBufferOrReportsCapacity :
    (∀ dl ∈ ([8, 7] : List Word), EncodeAdmitted (fourFives dl)) ∧ Memory.wf (fourFives 8).mem = true ∧
    NoBusErr (fourFives 8).params (wordSource (fourFives 8)) ∧ NoBusErr (fourFives 8).params (encodeDest (fourFives 8)) ∧
    view (step (fourFives 8)) = some ⟨2, 0, 2, 4⟩ ∧ view (step (fourFives 7)) = some ⟨0x604, 8, 0, 0⟩ :=
  ⟨fun dl h => admitted_fourFives dl (by
    simp only [List.mem_cons, List.not_mem_nil, or_false] at h
    rcases h with rfl | rfl <;> decide), by decide, quiet _, quiet _, by decide, by decide⟩
theorem witness_EncodeCompletesWithinTheSizeBound : EncodeAdmitted (fourFives 68) ∧
    NoBusErr (fourFives 68).params (wordSource (fourFives 68)) ∧ NoBusErr (fourFives 68).params (encodeDest (fourFives 68)) ∧
    (fourFives 68).params.wf ∧ 5 * (fourFives 68).sl.toNat + 48 ≤ (fourFives 68).dl.toNat :=
  ⟨admitted_fourFives 68 (by decide), quiet _, quiet _, by decide, by decide⟩
/-- CompressedBufferLayout, R94 and R95: the fields of a packed block past the end of the array hold 0, and 16 and 17 blocks
are one selector of count 16, and a selector of count 16 before one of count 1. -/
theorem witness_CompressedBufferLayout :
    (encodeBuffer .window false [9, 8, 15]).toOption.map (fun r => (r.runs, r.sels, r.payload)) =
      some ([⟨0, 3, .w4⟩], [0x4F], [9, 0, 0, 0, 8, 0, 0, 0, 15, 0, 0, 0, 0, 0, 0, 0]) ∧
    runSelectors ⟨0, 64, .w32⟩ = [0xE0] ∧ emittedSelectors ⟨0, 64, .w32⟩ = [0xE0] ∧
    runSelectors ⟨0, 65, .w32⟩ = [0xE0, 0xEF] ∧ emittedSelectors ⟨0, 65, .w32⟩ = [0xE0, 0xEF] := by decide
/-- Scenario C's shape, one run that the short-end rule does not touch: the hypothesis of PromotedWidthsCoverClassifiedWidths,
PayloadAndSelectorSizes and CompressedSizeBounds. -/
theorem witness_encodeBuffer :
    (encodeBuffer .window true (List.replicate 16 1 ++ [100])).toOption.map (fun r => (r.runs, r.sels)) =
      some ([⟨0, 17, .w7⟩], [0x7F]) := by decide
theorem witness_RunsAreWholeBlocksButTheLast :
    (encodeBuffer .head false (List.replicate 16 200 ++ [70000])).toOption.map (fun r => (r.runs, r.pad)) =
      some ([⟨0, 16, .w8⟩, ⟨16, 1, .w21⟩], 1) := by decide
theorem witness_PackedBlockWords : Width.w21.kind = .packed 2 ∧ (1 : Nat) < 2 ∧ (3 : Nat) < 4 := by decide
theorem witness_DirectBlockBytes : Width.w16.kind = .direct 2 ∧ (7 : Nat) < 8 := by decide
theorem witness_BlockReadsBackWhatWasPacked : Width.w8 ≠ .w0 ∧ (3 : Nat) ≤ Width.w8.blockInts ∧ (2 : Nat) < 3 ∧
    ∀ i, i < 3 → Memory.read (place [] 0x100 [5, 6, 7]) (0x100 + i) = (packBlock .w8 (fun j => 5 + j) 3).getD i 0 := by decide
/-- One state for each branch of DECODE's static checks, at the edge of it, and one that passes with ranges that touch. -/
theorem witness_DecodeStaticCheckOrder :
    decodeChecks (started 2 0x1003 4 0x2003 64 0 []) = some (.misaligned, 1) ∧
    decodeChecks (started 2 0xFFFFFFFC 2 0x2002 64 0 []) = some (.misaligned, 2) ∧
    decodeChecks (started 2 0xFFFFFFFC 2 0xFFFFFFFC 2 0 []) = some (.addrRange, 1) ∧
    decodeChecks (started 2 0xFFFFFFFC 1 0xFFFFFFFC 2 0 []) = some (.addrRange, 2) ∧
    decodeChecks (started 2 0xFFFFFFFC 1 0xFFFFFFFC 1 0 []) = some (.overlap, 0) ∧
    decodeChecks (started 2 0x1000 4 0x1010 4 0 []) = none ∧ (started 2 0x1000 4 0x1010 4 0 []).wrote = false := by decide
theorem admitted_decoding (dl : Word) (h : dl.toNat ≤ 4) : DecodeAdmitted (decoding dl) :=
  ⟨by show 0x2000 % 4 = 0; decide, by show 0x3000 % 4 = 0; decide, by show 0x2000 + 4 * 2 ≤ 2 ^ 32; decide,
    by show 0x3000 + 4 * dl.toNat ≤ 2 ^ 32; omega,
    by rintro ⟨_, _, _, h4⟩; exact absurd h4 (by show ¬ 0x3000 < 0x2000 + 4 * 2; decide)⟩
theorem trailerAt_one {m : Memory} {base len : Nat} (h1 : 1 ≤ len) (h2 : 128 ≤ (Memory.read m (base + (len - 1))).toNat) :
    TrailerAt m base len 1 := ⟨le_refl 1, by omega, h1, h2, fun i h3 h4 => by omega⟩
/-- Both clauses: an output count of 0 and of 4. -/
theorem witness_DecodeEntersTheSelectorLoop : ∀ dl ∈ ([0, 4] : List Word), let s := decoding dl
    DecodeAdmitted s ∧ NoBusErr s.params (wordSource s) ∧ TrailerAt s.mem s.sa.toNat (4 * s.sl.toNat) 1 ∧
    1 ≤ trailerValue s.mem s.sa.toNat (4 * s.sl.toNat) 1 ∧ trailerValue s.mem s.sa.toNat (4 * s.sl.toNat) 1 ≤ 4 * s.sl.toNat :=
  fun dl h => ⟨admitted_decoding dl (by
    simp only [List.mem_cons, List.not_mem_nil, or_false] at h
    rcases h with rfl | rfl <;> decide), quiet _, trailerAt_one (by show 1 ≤ 4 * 2; decide)
      (by show 128 ≤ (Memory.read (place [] 0x2000 [5, 5, 5, 5, 0x8F, 0, 0, 0x84]) (0x2000 + (4 * 2 - 1))).toNat; decide),
    by show 1 ≤ trailerValue (place [] 0x2000 [5, 5, 5, 5, 0x8F, 0, 0, 0x84]) 0x2000 (4 * 2) 1; decide,
    by show trailerValue (place [] 0x2000 [5, 5, 5, 5, 0x8F, 0, 0, 0x84]) 0x2000 (4 * 2) 1 ≤ 4 * 2; decide⟩
/-- A buffer of no word, of one word and of two words without a terminator. -/
theorem witness_DecodeRejectsMisplacedSelectorStart_unterminated :
    decodeChecks (started 2 0x2000 0 0x3000 0 0 []) = none ∧ decodeChecks (started 2 0x2000 1 0x3000 0 0 []) = none ∧
    decodeChecks (started 2 0x2000 2 0x3000 0 0 []) = none ∧ 4 * (1 : Word).toNat < 5 ∧ 5 ≤ 4 * (2 : Word).toNat ∧
    (Memory.read (started 2 0x2000 2 0x3000 0 0 []).mem 0x2007).toNat < 128 ∧
    view (step (started 2 0x2000 1 0x3000 0 0 [])) = some ⟨0x704, 1, 0, 0⟩ ∧
    view (step (started 2 0x2000 2 0x3000 0 0 [])) = some ⟨0x704, 2, 0, 0⟩ := by decide
/-- A trailer of five bytes whose value is 2^32. -/
theorem witness_DecodeRejectsMisplacedSelectorStart_large :
    let s := started 2 0x2000 2 0x3000 0 0 (place [] 0x2003 [0x80, 0, 0, 0, 0x10])
    decodeChecks s = none ∧ 128 ≤ (Memory.read s.mem 0x2003).toNat ∧ trailerValue s.mem s.sa.toNat (4 * s.sl.toNat) 5 = 2 ^ 32 ∧
    (∀ i, i < 5 → 0 < i → (Memory.read s.mem (0x2003 + i)).toNat < 128) ∧
    view (step s) = some ⟨0x704, 3, 0, 0⟩ := by decide
/-- Both clauses: trailer values 0 and 5 of a four-byte buffer. -/
theorem witness_DecodeRejectsMisplacedSelectorStart : ∀ b ∈ ([0x80, 0x85] : List Byte),
    let s := started 2 0x2000 1 0x3000 0 0 (place [] 0x2003 [b])
    s.wrote = false ∧ decodeChecks s = none ∧ 128 ≤ (Memory.read s.mem (s.sa.toNat + (4 * s.sl.toNat - 1))).toNat ∧
    (trailerValue s.mem s.sa.toNat (4 * s.sl.toNat) 1 < 1 ∨ 4 * s.sl.toNat < trailerValue s.mem s.sa.toNat (4 * s.sl.toNat) 1) := by decide
theorem witness_ZeroWidthSelectorCompletes : let s := looping [] 0x0F 3
    Memory.wf s.mem = true ∧ s.da.toNat + 4 * (s.oc + selectorOutputs .w0 1 s) ≤ 2 ^ 32 ∧
    NoBusErr s.params ⟨s.da.toNat + 4 * s.oc, s.da.toNat + 4 * (s.oc + selectorOutputs .w0 1 s)⟩ :=
  ⟨by decide, by decide, quiet _⟩
theorem witness_PackedSelectorsComplete : Width.w4.kind = .packed 1 ∧
    SelectorRunnable .w4 1 (looping [0, 1, 2, 3, 4, 5, 6, 7, 8, 9, 10, 11, 12, 13, 14, 15] 0x4F 32) :=
  ⟨rfl, ⟨by decide, by decide, by decide, by decide, quiet _, quiet _, by decide⟩⟩
theorem witness_DirectSelectorsComplete : Width.w8.kind = .direct 1 ∧ SelectorRunnable .w8 1 unpacking :=
  ⟨rfl, ⟨by decide, by decide, by decide, by decide, quiet _, quiet _, by decide⟩⟩
theorem witness_PayloadOverrunEndsDecode : let s := looping [5, 5, 5, 5] 0x8F 5
    Width.w8 ≠ .w0 ∧ s.oc < s.dl.toNat ∧ s.selStart < s.pp + Width.w8.bytesFor (min Width.w8.blockInts (s.dl.toNat - s.oc)) := by decide
/-- A second block of eight-bit values one byte short: 31 payload bytes for 32 values. -/
theorem witness_PayloadOverrunEndsDecode_later : let s := looping (List.replicate 31 7) 0x8E 32
    (0 : Nat) < 1 ∧ (1 : Nat) < 2 ∧ s.oc + 1 * Width.w8.blockInts < s.dl.toNat ∧ s.pp + 1 * Width.w8.blockBytes ≤ s.selStart ∧
    s.selStart < s.pp + 1 * Width.w8.blockBytes + Width.w8.bytesFor (min Width.w8.blockInts (s.dl.toNat - (s.oc + 1 * Width.w8.blockInts))) ∧
    s.sa.toNat + s.selStart ≤ 2 ^ 32 ∧ s.da.toNat + 4 * s.dl.toNat ≤ 2 ^ 32 ∧ Memory.wf s.mem = true ∧
    (∀ r, NoBusErr s.params r) := ⟨by decide, by decide, by decide, by decide, by decide, by decide, by decide, by decide, quiet⟩
theorem test_later_overrun : (match exec (.selW8 2) (looping (List.replicate 31 7) 0x8E 32) with
    | .next t => (t.statusWord, t.errinfo, t.oc, t.pp, t.wrote)
    | _ => (0, 0, 0, 0, false)) = (0xA04, 16, 16, 16, true) := by decide
/-- A platform with one bus error range. -/
def broken (s : State) (a : Nat) : State := { s with params := { Params.default with busErr := [(a, a + 1)] } }
/-- ENCODE: its second source word, its first and its last destination byte. -/
theorem witness_BusErrorsNameTheLowestAddress_encode :
    encodeChecks (broken (fourFives 8) 0x1007) = none ∧ (broken (fourFives 8) 0x1007).wrote = false ∧
    (sourceReads (broken (fourFives 8) 0x1007))[1]? = some ⟨0x1004, 4, false⟩ ∧
    busErrAt (broken (fourFives 8) 0x1007).params (0x1004 + 3) = true ∧
    (∀ i, i < 4 → busErrAt (broken (fourFives 8) 0x1007).params (0x1000 + i) = false) ∧
    (bufferWrites (fourFives 8) 8)[7]? = some ⟨0x2007, 1, true⟩ ∧
    (∀ i, i < 7 → busErrAt (broken (fourFives 8) 0x2007).params (0x2000 + i) = false) ∧
    view (step (broken (fourFives 8) 0x1007)) = some ⟨0xC04, 0x1004, 0, 0⟩ ∧
    view (step (broken (fourFives 8) 0x2000)) = some ⟨0xC04, 0x2000, 0, 0⟩ ∧
    view (step (broken (fourFives 8) 0x2007)) = some ⟨0xC04, 0x2007, 0, 0⟩ := by decide
/-- VBYTE_DEC and DECODE: the first byte scanned, and the fifth. -/
theorem witness_BusErrorsNameTheLowestAddress_trailer :
    let v := started 5 0x4000 5 0 0 0 []
    let d := started 2 0x4000 2 0x3000 0 0 []
    ScanBusError (broken v 0x4004) 0x4000 5 0 ∧ ScanBusError (broken v 0x4000) 0x4000 5 4 ∧
    ScanBusError (broken d 0x4003) 0x4000 8 4 ∧ decodeChecks d = none ∧
    view (step (broken v 0x4000)) = some ⟨0xC04, 0x4000, 0, 0⟩ ∧ view (step (broken d 0x4003)) = some ⟨0xC04, 0x4003, 0, 0⟩ :=
  ⟨⟨by decide, by decide, by decide, by decide⟩, ⟨by decide, by decide, by decide, by decide⟩,
    ⟨by decide, by decide, by decide, by decide⟩, by decide, by decide, by decide⟩
/-- A selector: the third value of `unpacking` is read at 0x102, after two reads and two writes. -/
theorem witness_BusErrorsNameTheLowestAddress_selector :
    unpacking.pp + selectorBytes .w8 1 unpacking ≤ unpacking.selStart ∧
    (∀ y ∈ selectorAccesses .w8 1 brokenAt102, y.addr + y.size ≤ 2 ^ 32) ∧
    (selectorAccesses .w8 1 brokenAt102)[4]? = some ⟨0x102, 1, false⟩ ∧ busErrAt brokenAt102.params 0x102 = true ∧
    (∀ y ∈ (selectorAccesses .w8 1 brokenAt102).take 4, anyBusErr brokenAt102.params y.addr y.size = false) ∧
    view (step brokenAt102) = some ⟨0xC04, 0x102, 0, 0⟩ := by decide
/-- Both clauses: an access next to the broken address, and one whose last byte is it. -/
theorem witness_BusErrorsNameTheLowestAddress :
    (∀ i, i < 2 → busErrAt brokenAt102.params (0x100 + i) = false) ∧
    (∃ i, i < 3 ∧ busErrAt brokenAt102.params (0x100 + i) = true) := ⟨by decide, 2, by decide⟩
theorem witness_ErrorCompletionKeepsTheRest : unpacking.wrote = false ∧ { unpacking with wrote := true }.wrote = true ∧
    Memory.wf unpacking.mem = true ∧ (decodeDest unpacking).mem 0x100F ∧ ¬ (decodeDest unpacking).mem 0xFFF := by decide
theorem inv_unpacking : Inv unpacking where
  mem := by decide
  params := by decide
  doneErr := by decide
  busyFlags := by decide
  busyErrinfo := by decide
  errcodeClear := by decide
  errcodeKnown := by decide
  opIsCmd := by decide
  startedClean := by decide
  decode := fun _ => by constructor <;> decide
theorem inv_decoding : Inv (decoding 4) where
  mem := by decide
  params := by decide
  doneErr := by decide
  busyFlags := by decide
  busyErrinfo := by decide
  errcodeClear := by decide
  errcodeKnown := by decide
  opIsCmd := by decide
  startedClean := by decide
  decode := fun h => by cases h
theorem witness_EveryStepKeepsTheInvariant : Inv unpacking ∧ view (step unpacking) = some ⟨2, 0, 4, 4⟩ :=
  ⟨inv_unpacking, by decide⟩
theorem witness_NoStepFaults : Inv (decoding 4) := inv_decoding
theorem witness_EngineWritesOnlyItsDestination : Inv unpacking ∧ EngineMoves unpacking ∧ unpacking.phase ≠ .breached ∧
    view (step unpacking) = some ⟨2, 0, 4, 4⟩ ∧ ¬ (runningDest unpacking).mem 0x1010 :=
  ⟨inv_unpacking, .inl rfl, by decide, by decide, by decide⟩
/-- Two memories that agree on the source range and differ elsewhere. -/
theorem witness_EngineReadsOnlyItsSource : let m := Memory.write unpacking.mem 0x108 9
    Memory.wf unpacking.mem = true ∧ Memory.wf m = true ∧ unpacking.selStart ≤ 4 * unpacking.sl.toNat ∧ m ≠ unpacking.mem ∧
    ∀ a, (wordSource unpacking).mem a → Memory.read m a = Memory.read unpacking.mem a :=
  ⟨by decide, by decide, by decide, by decide, fun a h => read_write_ne _ (by
    have : a < 0x100 + 4 * 2 := h.2
    omega) _⟩
theorem witness_ClassifiedWidthHoldsTheValue : Width.w1 ≠ .w0 ∧ (classify 1).bits ≤ Width.w1.bits ∧ (classify 0).bits ≤ Width.w1.bits := by decide
theorem witness_HostWritesDoNotAffectTheRunningCommand : Reg.dstLen ∈ operandRegs ∧ (0x7FFFFFFF : Word).getLsbD 31 = false := by decide
/-- Two different states that agree on all but the scratch. -/
theorem witness_ScratchIsNeverObserved : let t := { State.reset with widths := [7], sc := 9 }
    forgetScratch State.reset = forgetScratch t ∧ State.reset ≠ t := by decide
theorem witness_EveryCommandCompletes : Inv (decoding 4) ∧ (decoding 4).host = [] := ⟨inv_decoding, rfl⟩
theorem witness_ParametersNeverChange : view (step (started 3 0 0 0 0 70000 [])) = some ⟨2, 0, 21, 13⟩ := test_classify_70000
/-- Scenario B's buffer, about to be decoded. -/
theorem witness_DecodeOfEncodeIsTheSource :
    (encodeBuffer .window true [5, 5, 5, 5]).toOption.map Encoded.bytes = some [5, 5, 5, 5, 0x8F, 0, 0, 0x84] ∧
    Inv (decoding 4) ∧ (decoding 4).host = [] ∧ (decoding 4).phase = .started ∧ (decoding 4).op = 2 ∧
    DecodeAdmitted (decoding 4) ∧ 4 * (decoding 4).sl.toNat = 8 ∧ (decoding 4).dl.toNat = [5, 5, 5, 5].length ∧
    (∀ i, i < 8 → Memory.read (decoding 4).mem ((decoding 4).sa.toNat + i) = [5, 5, 5, 5, 0x8F, 0, 0, 0x84].getD i 0) ∧
    NoBusErr (decoding 4).params (wordSource (decoding 4)) ∧ NoBusErr (decoding 4).params (decodeDest (decoding 4)) :=
  ⟨by decide, inv_decoding, rfl, rfl, rfl, admitted_decoding 4 (by decide), by decide, by decide, by decide, quiet _, quiet _⟩

end Sys2Proof.Tests
end

section
/-! PROOFS. Byte lists that stand in memory: how they split, and the numbers read from them. -/

namespace Sys2Proof.Machine

theorem bytesAt_cons {m : Memory} {a : Nat} {x : Byte} {xs : List Byte} :
    BytesAt m a (x :: xs) ↔ Memory.read m a = x ∧ BytesAt m (a + 1) xs := by
  constructor
  · intro h
    refine ⟨by simpa using h 0 (by simp), fun i hi => ?_⟩
    have := h (i + 1) (by simpa using hi)
    rwa [show a + (i + 1) = a + 1 + i by omega] at this
  · rintro ⟨h1, h2⟩ i hi
    cases i with
    | zero => simpa using h1
    | succ i =>
      rw [show a + (i + 1) = a + 1 + i by omega, h2 i (by simpa using hi)]
      simp

theorem bytesAt_append {m : Memory} {xs ys : List Byte} : ∀ {a : Nat},
    BytesAt m a (xs ++ ys) ↔ BytesAt m a xs ∧ BytesAt m (a + xs.length) ys := by
  induction xs with
  | nil => intro a; simp [BytesAt]
  | cons x xs ih =>
    intro a
    rw [List.cons_append, bytesAt_cons, bytesAt_cons, ih, List.length_cons, and_assoc,
      show a + (xs.length + 1) = a + 1 + xs.length by omega]

/-- Bytes that stand in one memory stand in every memory that agrees with it there. -/
theorem BytesAt.congr {m m' : Memory} {a : Nat} {xs : List Byte} (h : BytesAt m a xs)
    (heq : ∀ b, a ≤ b → b < a + xs.length → Memory.read m' b = Memory.read m b) : BytesAt m' a xs :=
  fun i hi => (heq _ (by omega) (by omega)).trans (h i hi)

/-- Pieces of `k` bytes, one after the other: each stands at its multiple of `k`. -/
theorem bytesAt_flatMap_range {m : Memory} {a k : Nat} {f : Nat → List Byte} (hk : ∀ i, (f i).length = k) :
    ∀ {n i : Nat}, BytesAt m a ((List.range n).flatMap f) → i < n → BytesAt m (a + k * i) (f i)
  | 0, _, _, hi => absurd hi (Nat.not_lt_zero _)
  | n + 1, i, h, hi => by
    rw [List.range_succ, List.flatMap_append, bytesAt_append] at h
    obtain ⟨h1, h2⟩ := h
    rcases Nat.lt_succ_iff_lt_or_eq.mp hi with hlt | rfl
    · exact bytesAt_flatMap_range hk h1 hlt
    · simpa [List.length_flatMap, hk, Nat.mul_comm] using h2

/-- The number read where the bytes of a number stand. -/
theorem readLE_of_bytesAt {m : Memory} : ∀ {n a v : Nat}, BytesAt m a (leBytes n v) → Memory.readLE m a n = v % 256 ^ n
  | 0, _, v, _ => by simp [Memory.readLE, Nat.mod_one]
  | n + 1, a, v, h => by
    obtain ⟨h1, h2⟩ := bytesAt_cons.mp h
    simp only [Memory.readLE]
    rw [h1, readLE_of_bytesAt h2, pow_succ, Nat.mul_comm (256 ^ n), Nat.mod_mul]
    simp

end Sys2Proof.Machine
end

section
/-! PROOFS. A packed or direct block that stands in memory reads back as the values packed into it (R70, R71). -/

namespace Sys2Proof.Machine

@[simp] theorem and_mask (w : Width) (x : Nat) : x &&& w.mask = x % 2 ^ w.bits :=
  Nat.and_two_pow_sub_one_eq_mod x w.bits

/-- R70: a column value is below its rows' fields, and its rows' fields do not meet: each row adds its own. -/
theorem columnValue_lt_and_succ (w : Width) (v : Nat → Nat) (l : Nat) : ∀ rows : Nat,
    columnValue w v l rows < 2 ^ (rows * w.bits) ∧
      columnValue w v l (rows + 1) = columnValue w v l rows + v (4 * rows + l) % 2 ^ w.bits * 2 ^ (rows * w.bits) := by
  have succ_of_lt : ∀ rows, columnValue w v l rows < 2 ^ (rows * w.bits) → columnValue w v l (rows + 1) =
      columnValue w v l rows + v (4 * rows + l) % 2 ^ w.bits * 2 ^ (rows * w.bits) := fun rows h => by
    rw [columnValue, and_mask, Nat.or_comm, ← Nat.shiftLeft_add_eq_or_of_lt h, Nat.shiftLeft_eq, Nat.add_comm]
  intro rows
  induction rows with
  | zero => exact ⟨by simp [columnValue], succ_of_lt 0 (by simp [columnValue])⟩
  | succ rows ih =>
    obtain ⟨hlt, hsucc⟩ := ih
    have hfield : v (4 * rows + l) % 2 ^ w.bits < 2 ^ w.bits := Nat.mod_lt _ (by positivity)
    have hnext : columnValue w v l (rows + 1) < 2 ^ ((rows + 1) * w.bits) := by
      rw [hsucc, Nat.add_mul, Nat.one_mul, pow_add]
      nlinarith
    exact ⟨hnext, succ_of_lt _ hnext⟩

theorem columnValue_lt (w : Width) (v : Nat → Nat) (l rows : Nat) : columnValue w v l rows < 2 ^ (rows * w.bits) :=
  (columnValue_lt_and_succ w v l rows).1

theorem columnValue_succ (w : Width) (v : Nat → Nat) (l rows : Nat) :
    columnValue w v l (rows + 1) = columnValue w v l rows + v (4 * rows + l) % 2 ^ w.bits * 2 ^ (rows * w.bits) :=
  (columnValue_lt_and_succ w v l rows).2

/-- R70: the field of row `k` of a column. -/
theorem columnValue_field (w : Width) (v : Nat → Nat) (l : Nat) {k : Nat} : ∀ {rows : Nat}, k < rows →
    columnValue w v l rows / 2 ^ (w.bits * k) % 2 ^ w.bits = v (4 * k + l) % 2 ^ w.bits
  | 0, h => absurd h (Nat.not_lt_zero _)
  | rows + 1, h => by
    have hpos : 0 < 2 ^ (w.bits * k) := by positivity
    rw [columnValue_succ]
    rcases Nat.lt_succ_iff_lt_or_eq.mp h with hlt | rfl
    · obtain ⟨d, rfl⟩ := Nat.exists_eq_add_of_lt hlt
      have hsplit : v (4 * (k + d + 1) + l) % 2 ^ w.bits * 2 ^ ((k + d + 1) * w.bits) =
          v (4 * (k + d + 1) + l) % 2 ^ w.bits * 2 ^ (d * w.bits) * 2 ^ w.bits * 2 ^ (w.bits * k) := by
        rw [show (k + d + 1) * w.bits = d * w.bits + w.bits + w.bits * k by ring, pow_add, pow_add]
        ring
      rw [hsplit, Nat.add_mul_div_right _ _ hpos, Nat.add_mul_mod_self_right, columnValue_field w v l hlt]
    · have hlt := columnValue_lt w v l k
      rw [Nat.mul_comm k] at hlt ⊢
      rw [Nat.add_mul_div_right _ _ hpos, Nat.div_eq_of_lt hlt, Nat.zero_add, Nat.mod_mod]

theorem unitBytes_length (w : Width) (v : Nat → Nat) (h : Nat) : (unitBytes w v h).length = 16 := by
  simp [unitBytes, List.length_flatMap]

/-- R69: a packed width's units hold the rows of a column, and its blocks whole rows. -/
theorem packed_sizes {w : Width} {units : Nat} (h : w.kind = .packed units) :
    w.blockInts / 4 * w.bits ≤ 32 * units ∧ w.blockInts % 4 = 0 := by
  cases w <;> simp_all [Width.kind, Width.blockInts, Width.bits] <;> omega

/-- R71: a direct width stores whole bytes. -/
theorem direct_bits {w : Width} {bytes : Nat} (h : w.kind = .direct bytes) : w.bits = 8 * bytes := by
  cases w <;> simp_all [Width.kind, Width.bits] <;> omega

theorem kind_zero {w : Width} : w.kind = .zero ↔ w = .w0 := by
  cases w <;> simp [Width.kind]

/-- R96: the bytes a block of `r` values takes in the payload. -/
theorem packBlock_length (w : Width) (v : Nat → Nat) (r : Nat) : (packBlock w v r).length = w.bytesFor r := by
  unfold packBlock Width.bytesFor
  split <;> simp_all [List.length_flatMap, unitBytes_length, Nat.mul_comm]

/-- R70: the word of unit `h`, column `l` of a packed block in memory. -/
theorem readLE_packBlock {w : Width} {units : Nat} {v : Nat → Nat} {m : Memory} {base r h l : Nat}
    (hk : w.kind = .packed units) (hb : BytesAt m base (packBlock w v r)) (hh : h < units) (hl : l < 4) :
    Memory.readLE m (base + 16 * h + 4 * l) 4 = columnValue w v l (w.blockInts / 4) / 2 ^ (32 * h) % 2 ^ 32 := by
  rw [packBlock, hk] at hb
  have hunit := bytesAt_flatMap_range (unitBytes_length w v) hb hh
  have hword := readLE_of_bytesAt (bytesAt_flatMap_range (fun _ => leBytes_length 4 _) hunit hl)
  rw [hword, Nat.shiftRight_eq_div_pow]
  norm_num

/-- R70, R71: unpacking a packed or direct block inverts packing. -/
theorem blockValue_of_bytesAt {w : Width} {v : Nat → Nat} {m : Memory} {base r j : Nat} (hw : w ≠ .w0)
    (hr : r ≤ w.blockInts) (hj : j < r) (hb : BytesAt m base (packBlock w v r)) :
    blockValue m w base j = v j % 2 ^ w.bits := by
  unfold blockValue
  split
  case h_1 hk => exact absurd (kind_zero.mp hk) hw
  case h_2 units hk =>
    obtain ⟨hfit, hrows⟩ := packed_sizes hk
    have hcol := columnValue_lt w v (j % 4) (w.blockInts / 4)
    have hpow := Nat.pow_le_pow_right (n := 2) (by omega) hfit
    have hfield := columnValue_field w v (j % 4) (show j / 4 < w.blockInts / 4 by omega)
    rw [Nat.div_add_mod] at hfield
    have hlo := readLE_packBlock hk hb (h := 0) (l := j % 4) (by rcases kind_units hk with rfl | rfl <;> omega) (by omega)
    simp only [Nat.mul_zero, Nat.add_zero, pow_zero, Nat.div_one] at hlo
    rw [hlo, ← hfield]
    congr 2
    rcases kind_units hk with rfl | rfl
    · rw [if_neg (by omega), Nat.mod_eq_of_lt (by omega), Nat.add_zero]
    · have hhi := readLE_packBlock hk hb (h := 1) (l := j % 4) (by omega) (by omega)
      simp only [Nat.mul_one] at hhi
      rw [if_pos rfl, hhi]
      omega
  case h_3 bytes hk =>
    rw [packBlock, hk] at hb
    have hvalue := readLE_of_bytesAt (bytesAt_flatMap_range (fun _ => leBytes_length bytes _) hb hj)
    rw [hvalue, and_mask, direct_bits hk, pow_mul]
    norm_num

/-- R77, R79: a block of width `w` gives the value back: it fits the width's field, or it is the 1 that width 0 marks. -/
def GivesBack (w : Width) (x : Nat) : Prop := if w = .w0 then x = 1 else x < 2 ^ w.bits

/-- R70, R71, R72: a block that stands in memory reads back as every value its width gives back. -/
theorem blockValue_of_givesBack {w : Width} {v : Nat → Nat} {m : Memory} {base r j : Nat} (hr : r ≤ w.blockInts)
    (hj : j < r) (hx : GivesBack w (v j)) (hb : BytesAt m base (packBlock w v r)) : blockValue m w base j = v j := by
  unfold GivesBack at hx
  split at hx
  case isTrue hw => rw [hx, blockValue, kind_zero.mpr hw]
  case isFalse hw => rw [blockValue_of_bytesAt hw hr hj hb, Nat.mod_eq_of_lt hx]

end Sys2Proof.Machine
end

section
/-! PROOFS. A block whose payload and outputs answer is unpacked to its end (R123 to R137). -/

namespace Sys2Proof.Machine

/-- R119, R156, R50, R52: a block of `r` values can be unpacked to its end: its payload lies below the selector start, the
bytes it reads and writes exist, answer, and are apart; memory is in its canonical form. -/
structure BlockRunnable (w : Width) (r : Nat) (s : State) : Prop where
  memWf : Memory.wf s.mem = true
  payload : s.pp + w.bytesFor r ≤ s.selStart
  readsExist : s.sa.toNat + s.pp + w.bytesFor r ≤ 2 ^ 32
  writesExist : s.da.toNat + 4 * (s.oc + r) ≤ 2 ^ 32
  readsAnswer : NoBusErr s.params ⟨s.sa.toNat + s.pp, s.sa.toNat + s.pp + w.bytesFor r⟩
  writesAnswer : NoBusErr s.params ⟨s.da.toNat + 4 * s.oc, s.da.toNat + 4 * (s.oc + r)⟩
  apart : s.sa.toNat + s.pp + w.bytesFor r ≤ s.da.toNat + 4 * s.oc ∨ s.da.toNat + 4 * (s.oc + r) ≤ s.sa.toNat + s.pp

/-- R115: a block unpacked to its end: its values at the output cursor, its payload consumed, and nothing else changed. -/
structure BlockUnpacked (w : Width) (r : Nat) (s t : State) : Prop where
  outputs : ∀ j, j < r → wordAt t.mem (s.da.toNat + 4 * (s.oc + j)) = blockValue s.mem w (s.sa.toNat + s.pp) j
  wrote : WroteOnly (s.da.toNat + 4 * s.oc) (s.da.toNat + 4 * (s.oc + r)) s t
  consumed : t.pp = s.pp + w.bytesFor r

/-- The words that writes which all complete leave, each cut to 32 bits. -/
theorem wordAt_of_writeAll : ∀ {vs : List Nat} {s t : State} {a i v : Nat}, writeAll 4 s a vs = .ok t →
    Memory.wf s.mem = true → vs[i]? = some v → wordAt t.mem (a + 4 * i) = v % 2 ^ 32
  | [], _, _, _, _, _, _, _, hv => by simp at hv
  | x :: vs, s, t, a, i, v, h, hm, hv => by
    unfold writeAll at h
    split at h
    · cases h
    · rename_i s' hs'
      obtain ⟨rfl, hacc⟩ := memWrite_ok hs'
      have hin := (access_ok_iff.mp hacc).1
      cases i with
      | zero =>
        obtain rfl : x = v := by simpa using hv
        have hkeep := (writeAll_wroteOnly h).frame
        unfold wordAt
        rw [Nat.mul_zero, Nat.add_zero, readLE_congr (fun b _ hb => hkeep b (.inl hb)), readLE_writeLE _ hm hin]
        norm_num
      | succ i =>
        rw [show a + 4 * (i + 1) = a + 4 + 4 * i by omega]
        exact wordAt_of_writeAll h (writeLE_wf _ hm hin) (by simpa using hv)

/-- Reads inside a range that exists and answers complete. -/
theorem memRead_of_noBusErr {s : State} {r : Range} {a n : Nat} (hr : NoBusErr s.params r) (hlo : r.lo ≤ a)
    (hhi : a + n ≤ r.hi) (hex : r.hi ≤ 2 ^ 32) : memRead s a n = .ok (Memory.readLE s.mem a n) :=
  memRead_of_access (access_ok_iff.mpr ⟨by omega, fun i hi => hr _ ⟨by omega, by omega⟩⟩)

theorem bytesFor_packed {w : Width} {units : Nat} (h : w.kind = .packed units) (r : Nat) :
    w.bytesFor r = 16 * units := by
  simp [Width.bytesFor, h]

theorem bytesFor_direct {w : Width} {bytes : Nat} (h : w.kind = .direct bytes) (r : Nat) :
    w.bytesFor r = bytes * r := by
  simp [Width.bytesFor, h, Nat.mul_comm]

theorem blockBytes_packed {w : Width} {units : Nat} (h : w.kind = .packed units) : w.blockBytes = 16 * units := by
  simp [Width.blockBytes, h]

/-- R70: the value of a column whose words exist and answer. -/
def columnAt (m : Memory) (base units l : Nat) : Nat :=
  Memory.readLE m (base + 4 * l) 4 + (if units = 2 then Memory.readLE m (base + 16 + 4 * l) 4 * 2 ^ 32 else 0)

theorem readColumn_of_noBusErr {s : State} {base units l : Nat} (hu : units = 1 ∨ units = 2) (hl : l < 4)
    (hr : NoBusErr s.params ⟨base, base + 16 * units⟩) (hex : base + 16 * units ≤ 2 ^ 32) :
    readColumn s base units l = .ok (columnAt s.mem base units l) := by
  have hlo := memRead_of_noBusErr (a := base + 4 * l) (n := 4) hr (by simp only; omega) (by simp only; omega) hex
  have hlt := readLE_lt s.mem 4 (base + 4 * l)
  rcases hu with rfl | rfl
  · simp [readColumn, columnAt, hlo]
  · have hhi := memRead_of_noBusErr (a := base + 16 + 4 * l) (n := 4) hr (by simp only; omega) (by simp only; omega) hex
    simp only [readColumn, columnAt, hlo, hhi, if_pos]
    rw [Nat.or_comm, ← Nat.shiftLeft_add_eq_or_of_lt (by norm_num at hlt; exact hlt), Nat.shiftLeft_eq, Nat.add_comm]

theorem readColumns_of_noBusErr {s : State} {base units : Nat} (hu : units = 1 ∨ units = 2)
    (hr : NoBusErr s.params ⟨base, base + 16 * units⟩) (hex : base + 16 * units ≤ 2 ^ 32) :
    ∀ {k l : Nat}, l + k ≤ 4 →
      readColumns s base units l k = .ok ((List.range' l k).map (columnAt s.mem base units))
  | 0, _, _ => rfl
  | k + 1, l, h => by
    rw [readColumns, readColumn_of_noBusErr hu (by omega) hr hex, readColumns_of_noBusErr hu hr hex (by omega)]
    rfl

/-- R70: a field of the columns read is the block's value. -/
theorem packedField_columnAt {w : Width} {units : Nat} (hk : w.kind = .packed units) (m : Memory) (base j : Nat) :
    packedField w ((List.range' 0 4).map (columnAt m base units)) j = blockValue m w base j := by
  have hcol : ((List.range' 0 4).map (columnAt m base units)).getD (j % 4) 0 = columnAt m base units (j % 4) := by
    have := Nat.mod_lt j (show 0 < 4 by omega)
    simp [List.getD_eq_getElem?_getD, this]
  simp only [packedField, hcol, and_mask, Nat.shiftRight_eq_div_pow, blockValue, hk, columnAt]

/-- R72, R123: a block of width 0. -/
theorem unpackBlock_w0 {r : Nat} {s : State} (h : BlockRunnable .w0 r s) :
    ∃ t, unpackBlock .w0 r s = .ok t ∧ BlockUnpacked .w0 r s t := by
  have hexist := h.writesExist
  obtain ⟨t, ht⟩ := writeAll_of_access (n := 4) (vs := List.replicate r 1) (s := s) (a := s.da.toNat + 4 * s.oc)
    (by simp only [List.length_replicate]; omega)
    (fun b h1 h2 => h.writesAnswer b ⟨h1, by simp only [List.length_replicate] at h2 ⊢; omega⟩)
  have hw := writeAll_wroteOnly ht
  rw [List.length_replicate] at hw
  refine ⟨t, ht, fun j hj => ?_, hw.mono (le_refl _) (by omega), ?_⟩
  · rw [Nat.mul_add, ← Nat.add_assoc, wordAt_of_writeAll ht h.memWf (v := 1) (by simp [hj])]
    rfl
  · rw [(writeAll_ok ht).1]
    rfl

/-- R70, R124 to R130, R132 to R134, R136: a block of a packed width. -/
theorem unpackBlock_packed {w : Width} {units r : Nat} {s : State} (hk : w.kind = .packed units)
    (h : BlockRunnable w r s) : ∃ t, unpackBlock w r s = .ok t ∧ BlockUnpacked w r s t := by
  obtain ⟨hwf, hpay, hreads, hwrites, hra, hwa, -⟩ := h
  rw [bytesFor_packed hk] at hpay hreads hra
  have hcols := readColumns_of_noBusErr (s := s) (base := s.sa.toNat + s.pp) (kind_units hk) hra hreads
    (k := 4) (l := 0) (by omega)
  obtain ⟨t, ht⟩ := writeAll_of_access (n := 4) (s := s) (a := s.da.toNat + 4 * s.oc)
    (vs := (List.range r).map (packedField w ((List.range' 0 4).map (columnAt s.mem (s.sa.toNat + s.pp) units))))
    (by simp only [List.length_map, List.length_range]; omega)
    (fun b h1 h2 => hwa b ⟨h1, by simp only [List.length_map, List.length_range] at h2 ⊢; omega⟩)
  have hw := writeAll_wroteOnly ht
  simp only [List.length_map, List.length_range] at hw
  refine ⟨{ t with pp := s.pp + w.blockBytes }, ?_, fun j hj => ?_, ?_, ?_⟩
  · simp only [unpackBlock, hk, blockBytes_packed hk, if_neg (not_lt.mpr hpay), hcols, ht]
  · have hlt : blockValue s.mem w (s.sa.toNat + s.pp) j < 2 ^ 32 := by
      simp only [blockValue, hk]
      refine lt_of_lt_of_le (Nat.mod_lt _ (by positivity)) (Nat.pow_le_pow_right (by omega) ?_)
      cases w <;> decide
    simp only
    rw [Nat.mul_add, ← Nat.add_assoc, wordAt_of_writeAll ht hwf (v := blockValue s.mem w (s.sa.toNat + s.pp) j)
      (by simp [hj, packedField_columnAt hk]), Nat.mod_eq_of_lt hlt]
  · refine ⟨?_, hw.wf, fun b hb => hw.frame b (by omega)⟩
    rw [hw.rest]
  · rw [bytesFor_packed hk, blockBytes_packed hk]

/-- What a direct copy that completes leaves. -/
theorem copyDirect_ok {bytes k j : Nat} {s t : State} (h : copyDirect bytes j k s = .ok t) :
    WroteOnly (s.da.toNat + 4 * (s.oc + j)) (s.da.toNat + 4 * (s.oc + j) + 4 * k) s t := by
  rcases copyDirect_cases (bytes := bytes) (k := k) (j := j) (s := s) with
    ⟨t', h', hw, -⟩ | ⟨_, _, h', -⟩ | ⟨-, h'⟩ <;> rw [h] at h' <;> cases h'
  exact hw

/-- R71: a stretch of a direct block copied to its end. -/
theorem copyDirect_of_noBusErr {bytes : Nat} (hbytes : bytes ≤ 4) : ∀ {k j : Nat} {s : State}, Memory.wf s.mem = true →
    s.sa.toNat + s.pp + bytes * (j + k) ≤ 2 ^ 32 → s.da.toNat + 4 * (s.oc + (j + k)) ≤ 2 ^ 32 →
    NoBusErr s.params ⟨s.sa.toNat + s.pp, s.sa.toNat + s.pp + bytes * (j + k)⟩ →
    NoBusErr s.params ⟨s.da.toNat + 4 * s.oc, s.da.toNat + 4 * (s.oc + (j + k))⟩ →
    (s.sa.toNat + s.pp + bytes * (j + k) ≤ s.da.toNat + 4 * s.oc ∨
      s.da.toNat + 4 * (s.oc + (j + k)) ≤ s.sa.toNat + s.pp) →
    ∃ t, copyDirect bytes j k s = .ok t ∧ ∀ i, j ≤ i → i < j + k →
      wordAt t.mem (s.da.toNat + 4 * (s.oc + i)) = Memory.readLE s.mem (s.sa.toNat + s.pp + bytes * i) bytes
  | 0, j, s, _, _, _, _, _, _ => ⟨s, rfl, fun i h1 h2 => absurd h2 (by omega)⟩
  | k + 1, j, s, hwf, hreads, hwrites, hra, hwa, hapart => by
    have hj : bytes * j + bytes ≤ bytes * (j + (k + 1)) := by
      rw [← Nat.mul_succ]; exact Nat.mul_le_mul_left _ (by omega)
    have hrd := memRead_of_noBusErr (a := s.sa.toNat + s.pp + bytes * j) (n := bytes) hra
      (by simp only; omega) (by simp only; omega) hreads
    have hacc : access s (s.da.toNat + 4 * (s.oc + j)) 4 = .ok () :=
      access_ok_iff.mpr ⟨by omega, fun i hi => hwa _ ⟨by simp only; omega, by simp only; omega⟩⟩
    set x := Memory.readLE s.mem (s.sa.toNat + s.pp + bytes * j) bytes with hx
    have hxlt : x < 256 ^ 4 := lt_of_lt_of_le (readLE_lt _ _ _) (Nat.pow_le_pow_right (by omega) hbytes)
    have hwr := memWrite_of_access x hacc
    set s' : State := { s with mem := Memory.writeLE s.mem (s.da.toNat + 4 * (s.oc + j)) 4 x, wrote := true } with hs'
    rw [show j + (k + 1) = j + 1 + k by omega] at *
    obtain ⟨t, ht, hout⟩ := copyDirect_of_noBusErr (s := s') (j := j + 1) (k := k) hbytes
      (writeLE_wf _ hwf (by omega)) hreads hwrites hra hwa hapart
    have hframe := copyDirect_ok ht
    refine ⟨t, by simp only [copyDirect, hrd, hwr, ht], fun i h1 h2 => ?_⟩
    rcases Nat.eq_or_lt_of_le h1 with rfl | hlt
    · unfold wordAt
      rw [readLE_congr (fun b _ hb => hframe.frame b (.inl (by omega))), hs', readLE_writeLE _ hwf (by omega),
        Nat.mod_eq_of_lt hxlt]
    · have hi : bytes * i + bytes ≤ bytes * (j + 1 + k) := by
        rw [← Nat.mul_succ]; exact Nat.mul_le_mul_left _ (by omega)
      rw [hout i hlt (by omega)]
      exact readLE_congr (fun b h3 h4 => read_writeLE_outside _ _ (by simp only [hs'] at h3 h4; omega))

/-- R71, R131, R135, R137: a block of a direct width. -/
theorem unpackBlock_direct {w : Width} {bytes r : Nat} {s : State} (hk : w.kind = .direct bytes)
    (h : BlockRunnable w r s) : ∃ t, unpackBlock w r s = .ok t ∧ BlockUnpacked w r s t := by
  obtain ⟨hwf, hpay, hreads, hwrites, hra, hwa, hapart⟩ := h
  rw [bytesFor_direct hk] at hpay hreads hra hapart
  have hbytes : bytes ≤ 4 := by cases w <;> simp_all [Width.kind] <;> omega
  obtain ⟨t, ht, hout⟩ := copyDirect_of_noBusErr (s := s) (j := 0) (k := r) hbytes hwf (by simpa using hreads)
    (by simpa using hwrites) (by simpa using hra) (by simpa using hwa) (by simpa using hapart)
  have hw := (copyDirect_ok ht).mono (lo' := s.da.toNat + 4 * s.oc) (hi' := s.da.toNat + 4 * (s.oc + r))
    (by omega) (by omega)
  refine ⟨{ t with pp := s.pp + bytes * r }, ?_, fun j hj => ?_, ⟨?_, hw.wf, hw.frame⟩, ?_⟩
  · simp only [unpackBlock, hk, if_neg (not_lt.mpr hpay), ht]
  · simp only [blockValue, hk]
    exact hout j (Nat.zero_le j) (by omega)
  · rw [hw.rest]
  · rw [bytesFor_direct hk]

/-- R123 to R137: a block whose payload and outputs answer is unpacked to its end. -/
theorem unpackBlock_of_runnable {w : Width} {r : Nat} {s : State} (h : BlockRunnable w r s) :
    ∃ t, unpackBlock w r s = .ok t ∧ BlockUnpacked w r s t := by
  cases hk : w.kind with
  | zero =>
    obtain rfl := kind_zero.mp hk
    exact unpackBlock_w0 h
  | packed units => exact unpackBlock_packed hk h
  | direct bytes => exact unpackBlock_direct hk h

end Sys2Proof.Machine
end

section
/-! PROOFS. DECODE's selector loop on a payload and selectors that the encoder emitted: a source array tiled by selectors,
and the state the loop reaches after each of them. -/

namespace Sys2Proof.Machine

/-- R93: the payload of `c` blocks of width `w` from position `b` of the source array. -/
def blocksPayload (src : List Word) (w : Width) : Nat → Nat → List Byte
  | 0, _ => []
  | c + 1, b =>
    packBlock w (fun j => sourceAt src (b + j)) (min w.blockInts (src.length - b)) ++
      blocksPayload src w c (b + w.blockInts)

/-- R73: the payload of selectors, each a width and a block count, from position `b` of the source array. -/
def selectorsPayload (src : List Word) : List (Width × Nat) → Nat → List Byte
  | [], _ => []
  | (w, c) :: l, b => blocksPayload src w c b ++ selectorsPayload src l (b + c * w.blockInts)

/-- The selectors cover the source array from position `b` on: each has 1 to 16 blocks that all begin inside the array, at
a width that gives their values back. -/
inductive Selects (src : List Word) : Nat → List (Width × Nat) → Prop where
  | done {b : Nat} : src.length ≤ b → Selects src b []
  | selector {b c : Nat} {w : Width} {l : List (Width × Nat)} : 1 ≤ c → c ≤ 16 →
      b + c * w.blockInts < src.length + w.blockInts →
      (∀ j, b ≤ j → j < b + c * w.blockInts → j < src.length → GivesBack w (sourceAt src j)) →
      Selects src (b + c * w.blockInts) l → Selects src b ((w, c) :: l)

/-- A DECODE that enters its selector loop at `u` over an output count of the source array's length: its static checks
passed, its ranges answer, and no host action is pending. -/
structure LoopEntry (src : List Word) (u : State) : Prop where
  admitted : DecodeAdmitted u
  sourceAnswers : NoBusErr u.params (wordSource u)
  destAnswers : NoBusErr u.params (decodeDest u)
  outputCount : u.dl.toNat = src.length
  unpacking : u.phase = .unpack
  hostQuiet : u.host = []
  bufLen : u.bufLen = 4 * u.sl.toNat
  selStart_lt : u.selStart < u.bufLen

/-- The loop entered at `u` has come to position `b` of the source array: the values before it stand in the destination
range, and nothing but the cursors and that range has changed. -/
structure LoopAt (src : List Word) (u t : State) (b : Nat) : Prop where
  rest : t = { u with mem := t.mem, wrote := t.wrote, pp := t.pp, oc := min b src.length, sc := t.sc }
  wf : Memory.wf t.mem = true
  frame : ∀ a, ¬ (decodeDest u).mem a → Memory.read t.mem a = Memory.read u.mem a
  outputs : ∀ i, i < b → i < src.length → wordAt t.mem (u.da.toNat + 4 * i) = sourceAt src i

theorem mem_wordSource {s : State} {a : Nat} :
    (wordSource s).mem a ↔ s.sa.toNat ≤ a ∧ a < s.sa.toNat + 4 * s.sl.toNat := Iff.rfl

theorem mem_decodeDest {s : State} {a : Nat} :
    (decodeDest s).mem a ↔ s.da.toNat ≤ a ∧ a < s.da.toNat + 4 * s.dl.toNat := Iff.rfl

section Loop
variable {src : List Word} {u t : State} {b : Nat}

theorem LoopAt.dl_eq (he : LoopEntry src u) (h : LoopAt src u t b) : t.dl.toNat = src.length := by
  rw [h.rest]
  exact he.outputCount

theorem LoopAt.oc_eq (h : LoopAt src u t b) (hb : b < src.length) : t.oc = b := by
  rw [h.rest]
  exact Nat.min_eq_left hb.le

/-- R52: the ranges of an admitted DECODE are apart, so the loop leaves the compressed buffer alone. -/
theorem LoopAt.source_unchanged (he : LoopEntry src u) (h : LoopAt src u t b) {a : Nat} (ha : (wordSource u).mem a) :
    Memory.read t.mem a = Memory.read u.mem a := by
  have hapart := he.admitted.apart
  rw [mem_wordSource] at ha
  exact h.frame a (by rw [mem_decodeDest]; omega)

theorem LoopAt.bytesAt (he : LoopEntry src u) (h : LoopAt src u t b) {i : Nat} {xs : List Byte}
    (hb : BytesAt u.mem (u.sa.toNat + i) xs) (hi : i + xs.length ≤ u.bufLen) : BytesAt t.mem (u.sa.toNat + i) xs := by
  have hlen := he.bufLen
  exact hb.congr fun a h1 h2 => h.source_unchanged he (mem_wordSource.mpr (by omega))

/-- R52, R119: a block that begins inside the array and whose payload lies below the selector start can be unpacked. -/
theorem LoopAt.blockRunnable (he : LoopEntry src u) (h : LoopAt src u t b) {w : Width} (hb : b < src.length)
    (hpay : t.pp + w.bytesFor (min w.blockInts (src.length - b)) ≤ u.selStart) :
    BlockRunnable w (min w.blockInts (src.length - b)) t := by
  obtain ⟨⟨-, -, hsrc, hdst, hapart⟩, hsa, hda, hdl, -, -, hbuf, hsel⟩ := he
  have hwf := h.wf
  rw [h.rest, Nat.min_eq_left hb.le]
  constructor <;> simp only
  · exact hwf
  · exact hpay
  · omega
  · omega
  · exact fun a ha => hsa a (mem_wordSource.mpr (by obtain ⟨h1, h2⟩ := ha; simp only at h1 h2; omega))
  · exact fun a ha => hda a (mem_decodeDest.mpr (by obtain ⟨h1, h2⟩ := ha; simp only at h1 h2; omega))
  · omega

/-- R115: one block of the loop. -/
theorem LoopAt.unpackBlock (he : LoopEntry src u) (h : LoopAt src u t b) {w : Width} (hb : b < src.length)
    (hholds : ∀ j, b ≤ j → j < b + w.blockInts → j < src.length → GivesBack w (sourceAt src j))
    (hbytes : BytesAt u.mem (u.sa.toNat + t.pp)
      (packBlock w (fun j => sourceAt src (b + j)) (min w.blockInts (src.length - b))))
    (hpay : t.pp + w.bytesFor (min w.blockInts (src.length - b)) ≤ u.selStart) :
    ∃ t', Machine.unpackBlock w (min w.blockInts (src.length - b)) t = .ok t' ∧
      LoopAt src u { t' with oc := b + min w.blockInts (src.length - b) } (b + w.blockInts) ∧
      t'.pp = t.pp + w.bytesFor (min w.blockInts (src.length - b)) ∧ t'.sc = t.sc := by
  obtain ⟨t', hrun, hout, ⟨hrest, hwf, hframe⟩, hpp⟩ := unpackBlock_of_runnable (h.blockRunnable he hb hpay)
  have hsa : t.sa = u.sa := by rw [h.rest]
  have hda : t.da = u.da := by rw [h.rest]
  have hoc := h.oc_eq hb
  have hsel := he.selStart_lt
  have hdl := he.outputCount
  rw [hda, hoc] at hframe
  rw [hda, hoc, hsa] at hout
  refine ⟨t', hrun, ⟨?_, hwf h.wf, fun a ha => ?_, fun i hi hin => ?_⟩, hpp, by rw [hrest]⟩
  · have hfields := hrest
    rw [h.rest] at hfields
    rw [hfields, show b + min w.blockInts (src.length - b) = min (b + w.blockInts) src.length by omega]
  · rw [mem_decodeDest] at ha
    exact (hframe a (by omega)).trans (h.frame a ha)
  · by_cases hib : i < b
    · rw [← h.outputs i hib hin]
      exact readLE_congr (fun a _ ha => hframe a (.inl (by omega)))
    · obtain ⟨j, rfl⟩ := Nat.exists_eq_add_of_le (not_lt.mp hib)
      have hj : j < min w.blockInts (src.length - b) := by omega
      have hmem := h.bytesAt he hbytes (by rw [packBlock_length]; omega)
      exact (hout j hj).trans
        (blockValue_of_givesBack (Nat.min_le_left _ _) hj (hholds (b + j) (by omega) hi hin) hmem)

/-- R115: the blocks of a selector. -/
theorem LoopAt.unpackBlocks (he : LoopEntry src u) {w : Width} : ∀ {c b : Nat} {t : State}, LoopAt src u t b →
    b + c * w.blockInts < src.length + w.blockInts →
    (∀ j, b ≤ j → j < b + c * w.blockInts → j < src.length → GivesBack w (sourceAt src j)) →
    BytesAt u.mem (u.sa.toNat + t.pp) (blocksPayload src w c b) →
    t.pp + (blocksPayload src w c b).length ≤ u.selStart →
    ∃ t', Machine.unpackBlocks w c t = .ok t' ∧ LoopAt src u t' (b + c * w.blockInts) ∧
      t'.pp = t.pp + (blocksPayload src w c b).length ∧ t'.sc = t.sc
  | 0, b, t, h, _, _, _, _ => ⟨t, rfl, by simpa using h, rfl, rfl⟩
  | c + 1, b, t, h, hlast, hholds, hbytes, hpay => by
    have hmul : (c + 1) * w.blockInts = c * w.blockInts + w.blockInts := Nat.succ_mul _ _
    have hb : b < src.length := by omega
    obtain ⟨hbytes₁, hbytes₂⟩ := bytesAt_append.mp hbytes
    rw [packBlock_length, Nat.add_assoc] at hbytes₂
    simp only [blocksPayload, List.length_append, packBlock_length] at hpay ⊢
    obtain ⟨t₁, hrun₁, h₁, hpp₁, hsc₁⟩ := h.unpackBlock he hb
      (fun j h1 h2 => hholds j h1 (by omega)) hbytes₁ (by omega)
    obtain ⟨t₂, hrun₂, h₂, hpp₂, hsc₂⟩ := LoopAt.unpackBlocks he (c := c) h₁ (by omega)
      (fun j h1 h2 => hholds j (by omega) (by omega)) (by simpa only [hpp₁] using hbytes₂) (by simp only [hpp₁]; omega)
    have hoc := h.oc_eq hb
    have hdl := h.dl_eq he
    refine ⟨t₂, ?_, by rwa [show b + (c + 1) * w.blockInts = b + w.blockInts + c * w.blockInts by omega], ?_, ?_⟩
    · simp only [Machine.unpackBlocks, hoc, hdl, if_neg (not_le.mpr hb), hrun₁, hrun₂]
    · rw [hpp₂]; simp only [hpp₁]; omega
    · rw [hsc₂]; exact hsc₁

/-- R64, R65: a selector byte decodes to the selector of its width and count. -/
theorem decodeSelector_selectorByte (w : Width) {c : Nat} (h : 1 ≤ c) (h' : c ≤ 16) :
    decodeSelector (selectorByte w c) = .ok (Instr.sel w c) := by
  have hall : ∀ k : Fin 16, decodeSelector (selectorByte w (k.1 + 1)) = .ok (Instr.sel w (k.1 + 1)) := by
    cases w <;> decide
  obtain ⟨k, rfl⟩ := Nat.exists_eq_add_of_le' h
  exact hall ⟨k, by omega⟩

/-- R115, R117: inside the array the loop fetches the selector at its cursor. -/
theorem LoopAt.step_eq (he : LoopEntry src u) (h : LoopAt src u t b) {w : Width} {c : Nat} (hb : b < src.length)
    (hc : 1 ≤ c) (hc' : c ≤ 16) (hsc : t.sc < u.bufLen - u.trlLen)
    (hbyte : Memory.read u.mem (u.sa.toNat + t.sc) = selectorByte w c) : step t = execSelector w c t := by
  have hlen := he.bufLen
  have hin : (wordSource u).mem (u.sa.toNat + t.sc) := mem_wordSource.mpr (by omega)
  have hbyte' : Memory.read t.mem (u.sa.toNat + t.sc) = selectorByte w c := (h.source_unchanged he hin).trans hbyte
  have hread : memRead t (t.sa.toNat + t.sc) 1 = .ok (selectorByte w c).toNat := by
    have hsa : t.sa = u.sa := by rw [h.rest]
    have hp : t.params = u.params := by rw [h.rest]
    have hsrc := he.admitted.srcLegal
    rw [hsa, memRead_of_noBusErr (r := wordSource u) (hp ▸ he.sourceAnswers) hin.1 hin.2 hsrc]
    simp [Memory.readLE, hbyte']
  have hturn : nextTurn t = fetchSelector t := by
    have hhost : t.host = [] := by rw [h.rest]; exact he.hostQuiet
    have hphase : t.phase = .unpack := by rw [h.rest]; exact he.unpacking
    simp [nextTurn, hhost, engineTurn, hphase]
  have hdl := h.dl_eq he
  have hoc := h.oc_eq hb
  have hbuf : t.bufLen - t.trlLen = u.bufLen - u.trlLen := by rw [h.rest]
  have hrun : nextTurn t = .run (Instr.sel w c) t := by
    rw [hturn, fetchSelector, hdl, hoc, if_neg (by omega), hbuf, if_neg (by omega), hread]
    simp only [BitVec.ofNat_toNat, BitVec.setWidth_eq, decodeSelector_selectorByte w hc hc']
  rw [step_of_run hrun, exec_sel]

/-- R115, R120: one selector of the loop, its fetch and its blocks. -/
theorem LoopAt.step_selector (he : LoopEntry src u) (h : LoopAt src u t b) {w : Width} {c : Nat}
    (hc : 1 ≤ c) (hc' : c ≤ 16) (hlast : b + c * w.blockInts < src.length + w.blockInts)
    (hholds : ∀ j, b ≤ j → j < b + c * w.blockInts → j < src.length → GivesBack w (sourceAt src j))
    (hbytes : BytesAt u.mem (u.sa.toNat + t.pp) (blocksPayload src w c b))
    (hpay : t.pp + (blocksPayload src w c b).length ≤ u.selStart)
    (hsc : t.sc < u.bufLen - u.trlLen) (hbyte : Memory.read u.mem (u.sa.toNat + t.sc) = selectorByte w c) :
    ∃ t', step t = .next (endIfDone t') ∧ LoopAt src u t' (b + c * w.blockInts) ∧
      t'.pp = t.pp + (blocksPayload src w c b).length ∧ t'.sc = t.sc + 1 := by
  have hb : b < src.length := by
    have := Nat.mul_le_mul_right w.blockInts hc
    omega
  obtain ⟨t', hrun, h', hpp, hsc'⟩ := h.unpackBlocks he hlast hholds hbytes hpay
  refine ⟨{ t' with sc := t'.sc + 1 }, ?_, ⟨?_, h'.wf, h'.frame, h'.outputs⟩, hpp, by rw [hsc']⟩
  · rw [h.step_eq he hb hc hc' hsc hbyte, execSelector, runSelector, hrun]
    rfl
  · rw [h'.rest]

/-- A run that begins with a step that answers. -/
theorem core_run_succ {s s' : State} (k : Nat) (h : step s = .next s') :
    Host.Core.run Sys2Proof.core (k + 1) s = Host.Core.run Sys2Proof.core k s' := by
  have hcore : Sys2Proof.core.step s = .next s' := h
  simp only [Host.Core.run, hcore]

theorem LoopAt.endIfDone_of_lt (he : LoopEntry src u) (h : LoopAt src u t b) (hb : b < src.length) :
    endIfDone t = t := by
  have hdl := h.dl_eq he
  have hoc := h.oc_eq hb
  rw [endIfDone, hdl, hoc, if_neg (by omega)]

theorem LoopAt.endIfDone_of_ge (he : LoopEntry src u) (h : LoopAt src u t b) (hb : src.length ≤ b) :
    endIfDone t = complete t t.pp u.selStart := by
  have hdl := h.dl_eq he
  have hoc : t.oc = src.length := by rw [h.rest]; exact Nat.min_eq_right hb
  have hsel : t.selStart = u.selStart := by rw [h.rest]
  rw [endIfDone, hdl, hoc, if_pos (le_refl _), hsel]

/-- R115, R120, R146: the loop runs through selectors that cover the rest of the array and completes, its payload consumed
to the selector start. -/
theorem LoopAt.run_to_end (he : LoopEntry src u) {b : Nat} {l : List (Width × Nat)} (hl : Selects src b l) :
    ∀ {t : State}, LoopAt src u t b → BytesAt u.mem (u.sa.toNat + t.pp) (selectorsPayload src l b) →
    t.pp + (selectorsPayload src l b).length = u.selStart →
    BytesAt u.mem (u.sa.toNat + t.sc) (l.map fun x => selectorByte x.1 x.2) →
    t.sc + l.length ≤ u.bufLen - u.trlLen →
    ∃ k t' b', Host.Core.run Sys2Proof.core k (endIfDone t) = .next (complete t' u.selStart u.selStart) ∧
      LoopAt src u t' b' ∧ src.length ≤ b' := by
  induction hl with
  | @done b hb =>
    intro t h _ hpp _ _
    simp only [selectorsPayload, List.length_nil, Nat.add_zero] at hpp
    exact ⟨0, t, b, by rw [h.endIfDone_of_ge he hb, hpp]; rfl, h, hb⟩
  | @selector b c w l hc hc' hlast hholds _ ih =>
    intro t h hbytes hpp hsels hsc
    rw [selectorsPayload, bytesAt_append] at hbytes
    rw [selectorsPayload, List.length_append] at hpp
    rw [List.map_cons, bytesAt_cons] at hsels
    rw [List.length_cons] at hsc
    obtain ⟨t', hstep, h', hpp', hsc'⟩ := h.step_selector he hc hc' hlast hholds hbytes.1 (by omega) (by omega) hsels.1
    obtain ⟨k, t'', b', hrun, hend⟩ := ih h' (by rw [hpp', ← Nat.add_assoc]; exact hbytes.2) (by omega)
      (by rw [hsc', ← Nat.add_assoc]; exact hsels.2) (by omega)
    have hb : b < src.length := by
      have := Nat.mul_le_mul_right w.blockInts hc
      omega
    exact ⟨k + 1, t'', b', by rw [h.endIfDone_of_lt he hb, core_run_succ k hstep, hrun], hend⟩

end Loop

end Sys2Proof.Machine
end

section
/-! PROOFS. The trailer: the encoder's bytes one by one, and the backward decoder over them (R139, R141, R144). -/

namespace Sys2Proof.Machine

theorem vlen_pos (v : Nat) : 1 ≤ vlen v := by
  unfold vlen
  split_ifs <;> omega

theorem vlen_le (v : Nat) : vlen v ≤ 5 := by
  unfold vlen
  split_ifs <;> omega

/-- R138: a value below 2^32 fits the groups of its length. -/
theorem lt_of_vlen {v : Nat} (h : v < 2 ^ 32) : v < 128 ^ vlen v := by
  unfold vlen
  split_ifs <;> omega

@[simp] theorem vbyteGroups_length : ∀ t v : Nat, (vbyteGroups t v).length = t
  | 0, _ => rfl
  | t + 1, v => by simp [vbyteGroups, vbyteGroups_length t]

theorem vbyteGroups_getD : ∀ {t v i : Nat}, i < t → (vbyteGroups t v).getD i 0 = BitVec.ofNat 8 (v / 128 ^ i % 128)
  | 0, _, _, h => absurd h (Nat.not_lt_zero _)
  | t + 1, v, 0, _ => by simp [vbyteGroups]
  | t + 1, v, i + 1, h => by
    rw [vbyteGroups, List.getD_cons_succ, vbyteGroups_getD (by omega), Nat.div_div_eq_div_mul, pow_succ, Nat.mul_comm 128]

/-- R139: the encoding of a value: its groups, the lowest with the terminator bit. -/
theorem vbyteEnc_eq (v : Nat) :
    vbyteEnc v = (BitVec.ofNat 8 (v % 128) ||| 0x80) :: vbyteGroups (vlen v - 1) (v / 128) := by
  obtain ⟨t, ht⟩ := Nat.exists_eq_add_of_le' (vlen_pos v)
  simp [vbyteEnc, ht, vbyteGroups]

@[simp] theorem vbyteEnc_length (v : Nat) : (vbyteEnc v).length = vlen v := by
  have := vlen_pos v
  rw [vbyteEnc_eq, List.length_cons, vbyteGroups_length]
  omega

/-- R74: byte `i` of the encoding of a value. -/
theorem vbyteEnc_getD {v i : Nat} (h : i < vlen v) : ((vbyteEnc v).getD i 0).toNat = trailerByte v i := by
  rw [vbyteEnc_eq]
  cases i with
  | zero =>
    have hor : ∀ x : Fin 128, (BitVec.ofNat 8 x.1 ||| 0x80).toNat = x.1 + 128 := by decide
    simpa [trailerByte] using hor ⟨v % 128, Nat.mod_lt _ (by omega)⟩
  | succ i =>
    rw [List.getD_cons_succ, vbyteGroups_getD (by omega), Nat.div_div_eq_div_mul, ← pow_succ']
    simp [trailerByte]
    omega

theorem and_0x7F (b : Nat) : b &&& 0x7F = b % 128 := Nat.and_two_pow_sub_one_eq_mod b 7

/-- R74: the terminator bit of a trailer byte. -/
theorem trailerByte_and_0x80 (v i : Nat) : trailerByte v i &&& 0x80 = if i = 0 then 0x80 else 0 := by
  have hlow : ∀ x : Fin 128, x.1 &&& 0x80 = 0 ∧ (x.1 + 128) &&& 0x80 = 0x80 := by decide
  have h := hlow ⟨v / 128 ^ i % 128, Nat.mod_lt _ (by omega)⟩
  unfold trailerByte
  split
  · exact h.2
  · exact h.1

theorem trailerByte_mod (v i : Nat) : trailerByte v i % 128 = v / 128 ^ i % 128 := by
  unfold trailerByte
  split <;> omega

/-- R141: one round of the backward decoder adds the next group. -/
theorem shift_or_group (v i : Nat) : (v / 128 ^ (i + 1)) <<< 7 ||| v / 128 ^ i % 128 = v / 128 ^ i := by
  rw [← Nat.shiftLeft_add_eq_or_of_lt (show v / 128 ^ i % 128 < 2 ^ 7 from Nat.mod_lt _ (by omega)), Nat.shiftLeft_eq,
    pow_succ, ← Nat.div_div_eq_div_mul]
  omega

/-- R141: the backward scan over the encoding of a value, from its byte `i` on. -/
theorem vbyteScan_of_trailerBytes {s : State} {base lo v : Nat} : ∀ {i left t : Nat}, i ≤ left →
    (∀ j, j < i → memRead s (base + lo + j) 1 = .ok (trailerByte v j)) →
    vbyteScan s base left (lo + i) (v / 128 ^ i) t (trailerByte v i) = .ok (v, t + i)
  | 0, left, t, _, _ => by
    unfold vbyteScan
    rw [trailerByte_and_0x80, if_pos (by simp)]
    simp
  | i + 1, left, t, hleft, hread => by
    obtain ⟨left, rfl⟩ := Nat.exists_eq_add_of_le' (show 1 ≤ left by omega)
    have hnext := vbyteScan_of_trailerBytes (s := s) (base := base) (lo := lo) (v := v) (i := i) (left := left)
      (t := t + 1) (by omega) (fun j hj => hread j (by omega))
    unfold vbyteScan
    rw [trailerByte_and_0x80, if_neg (by simp)]
    simp only [show lo + (i + 1) ≠ 0 by omega, if_false, show base + (lo + (i + 1) - 1) = base + lo + i by omega,
      hread i (by omega), and_0x7F, trailerByte_mod, shift_or_group]
    rw [show lo + (i + 1) - 1 = lo + i by omega, hnext]
    congr 2
    omega

/-- R144: the backward decoder of a range that ends in the encoding of a value returns the value and its length. -/
theorem vbyteDec_of_bytesAt {s : State} {base len v : Nat} (hv : v < 2 ^ 32) (hlen : vlen v ≤ len)
    (hex : base + len ≤ 2 ^ 32) (hr : NoBusErr s.params ⟨base + (len - vlen v), base + len⟩)
    (hb : BytesAt s.mem (base + (len - vlen v)) (vbyteEnc v)) : vbyteDec s base len = .ok (v, vlen v) := by
  have hpos := vlen_pos v
  have hle := vlen_le v
  have hread : ∀ j, j < vlen v → memRead s (base + (len - vlen v) + j) 1 = .ok (trailerByte v j) := fun j hj => by
    rw [memRead_of_noBusErr hr (by simp only; omega) (by simp only; omega) hex, ← vbyteEnc_getD hj,
      ← hb j (by simpa using hj)]
    simp [Memory.readLE]
  obtain ⟨i, hi⟩ := Nat.exists_eq_add_of_le' hpos
  have hscan := vbyteScan_of_trailerBytes (s := s) (base := base) (lo := len - vlen v) (v := v) (i := i) (left := 4)
    (t := 1) (by omega) (fun j hj => hread j (by omega))
  have htop : trailerByte v i &&& 0x7F = v / 128 ^ i := by
    have hlt := lt_of_vlen hv
    rw [hi, pow_succ] at hlt
    rw [and_0x7F, trailerByte_mod, Nat.mod_eq_of_lt (Nat.div_lt_of_lt_mul hlt)]
  unfold vbyteDec
  rw [if_neg (by omega), show base + (len - 1) = base + (len - vlen v) + i by omega, hread i (by omega)]
  simp only [htop, show len - 1 = len - vlen v + i by omega, hscan, if_neg (not_le.mpr hv)]
  congr 2
  omega

/-- R140: the trailer length is the length of the encoding of the value it leads to. -/
theorem vlen_trailerLen (x : Nat) : vlen (x + trailerLen x) = trailerLen x := by
  have hstep : ∀ v t, t < 5 → t ≤ vlen v → vlen v ≠ t → t + 1 ≤ vlen (v + 1) := by
    intro v t ht hle hne
    unfold vlen at *
    grind
  unfold trailerLen
  split
  · assumption
  · have h1 := hstep (x + 1) 1 (by omega) (vlen_pos _) ‹_›
    split
    · assumption
    · have h2 := hstep (x + 2) 2 (by omega) h1 ‹_›
      split
      · assumption
      · have h3 := hstep (x + 3) 3 (by omega) h2 ‹_›
        split
        · assumption
        · exact le_antisymm (vlen_le _) (hstep (x + 4) 4 (by omega) h3 ‹_›)

theorem padFrom_le (S K : Nat) : ∀ {fuel P : Nat}, padFrom S K fuel P ≤ P + fuel
  | 0, _ => le_refl _
  | fuel + 1, P => by
    unfold padFrom
    split
    · omega
    · have := padFrom_le S K (fuel := fuel) (P := P + 1)
      omega

end Sys2Proof.Machine
end

section
/-! PROOFS. The encoder's runs as selectors that cover the source array (R91 to R95). -/

namespace Sys2Proof.Machine

/-- R91, R92: runs that tile the source array from position `b` on: each begins where the blocks of the one before end, lies
inside the array, and has a width that gives its values back. -/
inductive Tiles (src : List Word) : Nat → List Run → Prop where
  | done {b : Nat} : src.length ≤ b → Tiles src b []
  | run {x : Run} {l : List Run} : 0 < x.len →
      min (x.start + x.blocks * x.width.blockInts) src.length = x.start + x.len →
      (∀ j, x.start ≤ j → j < x.start + x.len → GivesBack x.width (sourceAt src j)) →
      Tiles src (x.start + x.blocks * x.width.blockInts) l → Tiles src x.start (x :: l)

/-- R93: the blocks of a run reach its end, and the last of them begins inside it. -/
theorem Run.blocks_bounds (x : Run) : x.len ≤ x.blocks * x.width.blockInts ∧
    x.blocks * x.width.blockInts < x.len + x.width.blockInts := by
  have hN := blockInts_pos x.width
  have hdiv := Nat.div_add_mod (x.len + x.width.blockInts - 1) x.width.blockInts
  have hmod := Nat.mod_lt (x.len + x.width.blockInts - 1) (show 0 < x.width.blockInts by omega)
  rw [Nat.mul_comm] at hdiv
  unfold Run.blocks
  omega

theorem Run.blocks_add_blockInts (s l : Nat) (w : Width) :
    (Run.mk s (l + w.blockInts) w).blocks = (Run.mk s l w).blocks + 1 := by
  have hN := blockInts_pos w
  simp only [Run.blocks]
  rw [show l + w.blockInts + w.blockInts - 1 = l + w.blockInts - 1 + w.blockInts by omega,
    Nat.add_div_right _ (by omega)]

/-- R91: a span of one width put before runs: a run of its own, or part of the first of them. -/
def prependRun (i k : Nat) (w : Width) : List Run → List Run
  | [] => [⟨i, k, w⟩]
  | r :: rs => if r.width = w then ⟨i, r.len + k, w⟩ :: rs else ⟨i, k, w⟩ :: r :: rs

theorem runsFrom_cons (i : Nat) (w : Width) (l : List Width) :
    runsFrom i (w :: l) = prependRun i 1 w (runsFrom (i + 1) l) := by
  rw [runsFrom]
  cases runsFrom (i + 1) l <;> rfl

theorem prependRun_prependRun (i k m : Nat) (w : Width) (l : List Run) :
    prependRun i k w (prependRun (i + k) m w l) = prependRun i (k + m) w l := by
  rcases l with _ | ⟨r, rs⟩
  · simp [prependRun, Nat.add_comm]
  · by_cases hr : r.width = w
    · simp [prependRun, hr, Nat.add_assoc, Nat.add_comm m]
    · simp [prependRun, hr, Nat.add_comm]

/-- R91: the runs of a span of one width before other widths. -/
theorem runsFrom_replicate_append {w : Width} {l : List Width} : ∀ {k i : Nat}, 0 < k →
    runsFrom i (List.replicate k w ++ l) = prependRun i k w (runsFrom (i + k) l)
  | 1, i, _ => runsFrom_cons i w l
  | k + 2, i, _ => by
    rw [List.replicate_succ, List.cons_append, runsFrom_cons, runsFrom_replicate_append (by omega),
      prependRun_prependRun, show i + 1 + (k + 1) = i + (k + 2) by omega, Nat.add_comm 1]

/-- R92: the first block put before a tiling: a run of its own, or part of the run of its width. -/
theorem Tiles.cons_block {src : List Word} {b : Nat} {w : Width} {l : List Run}
    (hin : b + w.blockInts ≤ src.length)
    (hholds : ∀ j, b ≤ j → j < b + w.blockInts → GivesBack w (sourceAt src j)) (h : Tiles src (b + w.blockInts) l) :
    Tiles src b (prependRun b w.blockInts w l) := by
  have hN := blockInts_pos w
  have hone : (Run.mk b w.blockInts w).blocks = 1 := by
    have := Run.blocks_add_blockInts b 0 w
    rw [Nat.zero_add] at this
    rw [this]
    simp only [Run.blocks]
    rw [Nat.div_eq_of_lt (by omega)]
  have hfirst : ∀ {rs : List Run}, Tiles src (b + w.blockInts) rs → Tiles src b (⟨b, w.blockInts, w⟩ :: rs) := fun hrs =>
    .run (x := ⟨b, w.blockInts, w⟩) (by simp only; omega)
      (by simp only [hone, Nat.one_mul]; exact Nat.min_eq_left hin) hholds (by simpa only [hone, Nat.one_mul] using hrs)
  generalize hb' : b + w.blockInts = b' at h
  cases h with
  | done hb => exact hfirst (.done (by omega))
  | @run x l hlen hend hx hl =>
    rw [prependRun]
    split
    · rename_i hw
      subst hw
      have hblocks : b + (Run.mk b (x.len + x.width.blockInts) x.width).blocks * x.width.blockInts =
          x.start + x.blocks * x.width.blockInts := by
        rw [Run.blocks_add_blockInts, Nat.succ_mul]
        simp only [Run.blocks]
        omega
      refine .run (x := ⟨b, x.len + x.width.blockInts, x.width⟩) (by simp only; omega)
        (by simp only; rw [hblocks, hend]; omega) (fun j h1 h2 => ?_) (by simp only; rw [hblocks]; exact hl)
      · simp only at h1 h2
        by_cases hj : j < b + x.width.blockInts
        · exact hholds j h1 hj
        · exact hx j (by omega) (by omega)
    · exact hfirst (hb' ▸ .run hlen hend hx hl)

/-- R92: the entries of full blocks of the given widths. -/
def blockWidths (bl : List Width) : List Width := bl.flatMap (fun w => List.replicate w.blockInts w)

/-- R91, R92: the run of the block that reaches the end of the array. -/
theorem tiles_runsFrom_replicate {src : List Word} {w : Width} {i k : Nat} (hi : i + k = src.length)
    (hk : k ≤ w.blockInts) (hholds : ∀ j, i ≤ j → j < i + k → GivesBack w (sourceAt src j)) :
    Tiles src i (runsFrom i (List.replicate k w)) := by
  cases k with
  | zero => exact .done (by omega)
  | succ k =>
    have hruns : runsFrom i (List.replicate (k + 1) w) = [⟨i, k + 1, w⟩] := by
      rw [← List.append_nil (List.replicate _ w), runsFrom_replicate_append (by omega)]
      rfl
    have hge := (Run.blocks_bounds ⟨i, k + 1, w⟩).1
    simp only at hge
    rw [hruns]
    exact .run (x := ⟨i, k + 1, w⟩) (by simp) (by simp only; omega) hholds (.done (by simp only; omega))

/-- R91, R92: the runs of an array of whole blocks, the last perhaps cut short, tile the array. -/
theorem tiles_runsFrom {src : List Word} : ∀ {bl : List Width} {i k : Nat}, i + k = src.length →
    k ≤ (blockWidths bl).length →
    (∀ j w, ((blockWidths bl).take k)[j]? = some w → GivesBack w (sourceAt src (i + j))) →
    Tiles src i (runsFrom i ((blockWidths bl).take k))
  | [], i, k, hi, hk, _ => by
    obtain rfl : k = 0 := by simpa [blockWidths] using hk
    exact .done (by omega)
  | w :: bl, i, k, hi, hk, hholds => by
    have hN := blockInts_pos w
    have hcons : blockWidths (w :: bl) = List.replicate w.blockInts w ++ blockWidths bl := rfl
    rw [hcons] at hk hholds ⊢
    rw [List.length_append, List.length_replicate] at hk
    rw [List.take_append, List.take_replicate, List.length_replicate] at hholds ⊢
    have hw : ∀ j, i ≤ j → j < i + min k w.blockInts → GivesBack w (sourceAt src j) := fun j h1 h2 => by
      obtain ⟨d, rfl⟩ := Nat.exists_eq_add_of_le h1
      refine hholds d w ?_
      rw [List.getElem?_append_left (by simp only [List.length_replicate]; omega), List.getElem?_replicate,
        if_pos (by omega)]
    by_cases hlt : w.blockInts < k
    · rw [Nat.min_eq_right hlt.le] at hw hholds ⊢
      have hrest := tiles_runsFrom (src := src) (bl := bl) (i := i + w.blockInts) (k := k - w.blockInts) (by omega)
        (by omega) (fun j x hj => by
          rw [Nat.add_assoc]
          refine hholds (w.blockInts + j) x ?_
          rw [List.getElem?_append_right (by simp), List.length_replicate, Nat.add_sub_cancel_left]
          exact hj)
      rw [runsFrom_replicate_append (by omega)]
      exact Tiles.cons_block (by omega) hw hrest
    · rw [Nat.min_eq_left (by omega), show k - w.blockInts = 0 by omega, List.take_zero, List.append_nil]
      rw [Nat.min_eq_left (by omega)] at hw
      exact tiles_runsFrom_replicate hi (by omega) hw

/-- R94: the selectors of a run, as widths and counts. -/
def Run.selectors (x : Run) : List (Width × Nat) := (selectorCounts x.blocks x.blocks).map fun c => (x.width, c)

theorem runSelectors_eq (x : Run) : runSelectors x = x.selectors.map fun y => selectorByte y.1 y.2 := by
  simp [runSelectors, Run.selectors]

/-- R93: the payload of a run, block by block. -/
theorem runPayload_eq (src : List Word) (x : Run) : runPayload src x = blocksPayload src x.width x.blocks x.start := by
  have hblocks : ∀ (c b : Nat), (List.range c).flatMap (fun q =>
      packBlock x.width (fun j => sourceAt src (b + q * x.width.blockInts + j))
        (min x.width.blockInts (src.length - (b + q * x.width.blockInts)))) = blocksPayload src x.width c b := by
    intro c
    induction c with
    | zero => intro b; rfl
    | succ c ih =>
      intro b
      rw [List.range_succ_eq_map, List.flatMap_cons, List.flatMap_map, blocksPayload, ← ih]
      simp only [Nat.zero_mul, Nat.add_zero, Nat.succ_mul, Nat.add_assoc, Nat.add_comm (x.width.blockInts)]
  exact hblocks x.blocks x.start

theorem blocksPayload_add (src : List Word) (w : Width) : ∀ (c d b : Nat),
    blocksPayload src w (c + d) b = blocksPayload src w c b ++ blocksPayload src w d (b + c * w.blockInts)
  | 0, d, b => by simp [blocksPayload]
  | c + 1, d, b => by
    rw [show c + 1 + d = c + d + 1 by omega, blocksPayload, blocksPayload_add src w c d, blocksPayload, List.append_assoc,
      Nat.succ_mul, Nat.add_comm (c * _), Nat.add_assoc]

/-- R94: a run's batches before further selectors: they cover its blocks, and their payload is its blocks. -/
theorem selects_batches {src : List Word} {w : Width} {l : List (Width × Nat)} : ∀ {fuel nblk b : Nat}, nblk ≤ fuel →
    (0 < nblk → b + nblk * w.blockInts < src.length + w.blockInts) →
    (∀ j, b ≤ j → j < b + nblk * w.blockInts → j < src.length → GivesBack w (sourceAt src j)) →
    Selects src (b + nblk * w.blockInts) l →
    Selects src b ((selectorCounts fuel nblk).map (fun c => (w, c)) ++ l) ∧
      selectorsPayload src ((selectorCounts fuel nblk).map (fun c => (w, c)) ++ l) b =
        blocksPayload src w nblk b ++ selectorsPayload src l (b + nblk * w.blockInts)
  | 0, nblk, b, hf, _, _, hl => by
    obtain rfl : nblk = 0 := by omega
    simpa [selectorCounts, blocksPayload] using hl
  | fuel + 1, nblk, b, hf, hlast, hholds, hl => by
    by_cases hz : nblk = 0
    · subst hz
      simpa [selectorCounts, blocksPayload] using hl
    · obtain ⟨c, d, hc1, hc16, hcd, hmin⟩ : ∃ c d, 1 ≤ c ∧ c ≤ 16 ∧ c + d = nblk ∧ min 16 nblk = c :=
        ⟨min 16 nblk, nblk - min 16 nblk, by omega, by omega, by omega, rfl⟩
      subst hcd
      have hend := hlast (by omega)
      have hmul : (c + d) * w.blockInts = c * w.blockInts + d * w.blockInts := Nat.add_mul _ _ _
      rw [hmul, ← Nat.add_assoc] at hl
      obtain ⟨h1, h2⟩ := selects_batches (src := src) (w := w) (l := l) (fuel := fuel) (nblk := d)
        (b := b + c * w.blockInts) (by omega) (fun _ => by omega) (fun j hj1 hj2 => hholds j (by omega) (by omega)) hl
      simp only [selectorCounts, if_neg hz, hmin, Nat.add_sub_cancel_left, List.map_cons, List.cons_append]
      refine ⟨.selector hc1 hc16 (by omega) (fun j hj1 hj2 => hholds j hj1 (by omega)) h1, ?_⟩
      rw [selectorsPayload, h2, blocksPayload_add, List.append_assoc, hmul, Nat.add_assoc]

/-- R91 to R95: runs that tile the source array emit selectors that cover it, and their payload. -/
theorem Tiles.selects {src : List Word} {b : Nat} {runs : List Run} (h : Tiles src b runs) :
    Selects src b (runs.flatMap Run.selectors) ∧
      runs.flatMap (runPayload src) = selectorsPayload src (runs.flatMap Run.selectors) b := by
  induction h with
  | done hb => exact ⟨.done hb, rfl⟩
  | @run x l hlen hend hholds _ ih =>
    obtain ⟨hsel, hpay⟩ := ih
    have hlast := x.blocks_bounds.2
    obtain ⟨h1, h2⟩ := selects_batches (src := src) (fuel := x.blocks) (nblk := x.blocks) (b := x.start) (le_refl _)
      (fun _ => by omega) (fun j hj1 hj2 hj3 => hholds j hj1 (by omega)) hsel
    exact ⟨h1, by rw [List.flatMap_cons, runPayload_eq, hpay]; exact h2.symm⟩

/-- R98: selectors that cover an array are at most its values. -/
theorem Selects.length_le {src : List Word} {b : Nat} {l : List (Width × Nat)} (h : Selects src b l) :
    b + l.length ≤ max b src.length := by
  induction h with
  | done => simp
  | @selector b c w l hc _ hlast _ _ ih =>
    have hmul := Nat.mul_le_mul_right w.blockInts hc
    have hN := blockInts_pos w
    rw [List.length_cons]
    omega

end Sys2Proof.Machine
end

section
/-! PROOFS. The promoter: no pass lowers an entry, and the array it leaves is whole blocks of widths that give every value
back (R79, R83 to R89, R92). -/

namespace Sys2Proof.Machine

/-- R89: no entry is lowered. -/
abbrev Raised (ws ws' : List Nat) : Prop := List.Forall₂ (· ≤ ·) ws ws'

theorem Raised.refl (ws : List Nat) : Raised ws ws := List.forall₂_refl ws

theorem Raised.trans {ws ws' ws'' : List Nat} (h : Raised ws ws') (h' : Raised ws' ws'') : Raised ws ws'' := by
  induction h generalizing ws'' with
  | nil => exact h'
  | cons hle _ ih =>
    cases h' with
    | cons hle' h' => exact .cons (hle.trans hle') (ih h')

theorem Raised.append {ws ws' vs vs' : List Nat} (h : Raised ws ws') (h' : Raised vs vs') :
    Raised (ws ++ vs) (ws' ++ vs') :=
  List.rel_append h h'

/-- Every entry is at most the largest width. -/
abbrev Bounded (ws : List Nat) : Prop := ∀ x ∈ ws, x ≤ 32

theorem maxEntry_le {l : List Nat} (h : Bounded l) : maxEntry l ≤ 32 := by
  rcases eq_or_ne l [] with rfl | hl
  · simp [maxEntry]
  · exact h _ (maxEntry_mem hl)

/-! ### Changes of a window -/

theorem append_window_append (ws : List Nat) (p len : Nat) :
    ws.take p ++ window ws p len ++ ws.drop (p + len) = ws := by
  rw [window, ← List.drop_drop, List.append_assoc, List.take_append_drop, List.take_append_drop]

theorem raised_mapWindow {f : Nat → Nat} {ws : List Nat} {p len : Nat} (h : ∀ x ∈ window ws p len, x ≤ f x) :
    Raised ws (mapWindow f ws p len) := by
  have hwin : Raised (window ws p len) ((window ws p len).map f) :=
    List.forall₂_map_right_iff.mpr (List.forall₂_same.mpr h)
  have := ((Raised.refl (ws.take p)).append hwin).append (Raised.refl (ws.drop (p + len)))
  rwa [append_window_append] at this

theorem bounded_mapWindow {f : Nat → Nat} {ws : List Nat} {p len : Nat} (hws : Bounded ws)
    (h : ∀ x ∈ window ws p len, f x ≤ 32) : Bounded (mapWindow f ws p len) := by
  intro x hx
  simp only [mapWindow, List.mem_append, List.mem_map] at hx
  rcases hx with (hx | ⟨y, hy, rfl⟩) | hx
  · exact hws x (List.mem_of_mem_take hx)
  · exact h y hy
  · exact hws x (List.mem_of_mem_drop hx)

theorem take_mapWindow {f : Nat → Nat} {ws : List Nat} {p len : Nat} (h : p ≤ ws.length) :
    (mapWindow f ws p len).take p = ws.take p := by
  rw [mapWindow, List.append_assoc, List.take_left' (by simp [h])]

/-- R86: a filled window. -/
theorem take_mapWindow_const {ws : List Nat} {p len c : Nat} (h : p + len ≤ ws.length) :
    (mapWindow (fun _ => c) ws p len).take (p + len) = ws.take p ++ List.replicate len c := by
  have hlen : (window ws p len).length = len := by simp [window]; omega
  rw [mapWindow, List.map_const', hlen, List.take_left' (by simp; omega)]

theorem mem_of_mem_window {ws : List Nat} {p len x : Nat} (h : x ∈ window ws p len) : x ∈ ws :=
  List.mem_of_mem_drop (List.mem_of_mem_take h)

/-! ### Pass 1 and the scan -/

/-- R83: pass 1 raises each entry to its group's maximum. -/
theorem raised_pass1Groups : ∀ {g : Nat} {ws : List Nat}, Bounded ws →
    Raised ws (pass1Groups g ws) ∧ Bounded (pass1Groups g ws)
  | 0, ws, h => ⟨Raised.refl ws, h⟩
  | _ + 1, [], h => ⟨.nil, h⟩
  | g + 1, x :: xs, h => by
    have htake : Bounded ((x :: xs).take 4) := fun y hy => h y (List.mem_of_mem_take hy)
    obtain ⟨hr, hb⟩ := raised_pass1Groups (g := g) (ws := (x :: xs).drop 4) (fun y hy => h y (List.mem_of_mem_drop hy))
    have hgroup : Raised ((x :: xs).take 4)
        (List.replicate ((x :: xs).take 4).length (maxEntry ((x :: xs).take 4))) := by
      rw [← List.map_const']
      exact List.forall₂_map_right_iff.mpr (List.forall₂_same.mpr fun y hy => le_maxEntry hy)
    constructor
    · have := hgroup.append hr
      rwa [List.take_append_drop] at this
    · intro y hy
      rcases List.mem_append.mp hy with hy | hy
      · rw [List.eq_of_mem_replicate hy]
        exact maxEntry_le htake
      · exact hb y hy

theorem ofBits?_some {x : Nat} {w : Width} (h : Width.ofBits? x = some w) : w.bits = x := by
  simpa using List.find?_some h

theorem ofBits?_bits (w : Width) : Width.ofBits? w.bits = some w := by cases w <;> rfl

/-- R82: the next width of the chain is larger, and a width while the present one is not the last. -/
theorem bits_le_next (w : Width) : w.bits ≤ w.next ∧ (w.bits < 32 → w.next ≤ 32) := by cases w <;> decide

/-- R85: a promotion step, as a change of a window at `p` that raises it within the widths. -/
theorem promoteStep_window {ws : List Nat} {p : Nat} {w : Width} (scope : PromoteScope) (hp : p < ws.length)
    (hw : w.bits = ws.getD p 64) (hb : Bounded ws) (hlt : w.bits < 32) :
    ∃ f len, promoteStep scope ws p w = mapWindow f ws p len ∧ ∀ x ∈ window ws p len, x ≤ f x ∧ f x ≤ 32 := by
  obtain ⟨hle, hnext⟩ := bits_le_next w
  cases scope with
  | window => exact ⟨_, _, rfl, fun x hx => ⟨le_max_left _ _, max_le (hb x (mem_of_mem_window hx)) (hnext hlt)⟩⟩
  | head =>
    refine ⟨_, _, rfl, fun x hx => ⟨?_, hnext hlt⟩⟩
    rw [window, List.drop_eq_getElem_cons hp] at hx
    rw [List.mem_singleton.mp hx]
    simpa [hw, List.getD_eq_getElem?_getD, hp] using hle

/-- R87: the short-end rule's width is at least the largest that remains, and what remains is one block of it at most. -/
theorem shortEndWidth_some {rem m width : Nat} (h : shortEndWidth rem m = some width) (hm : m ≤ 32) :
    m ≤ width ∧ ∃ w : Width, w.bits = width ∧ rem ≤ w.blockInts := by
  cases shortEnd_iff.mpr h with
  | eight h1 h2 => exact ⟨h2, .w8, rfl, h1.le⟩
  | sixteen _ h1 h2 => exact ⟨h2, .w16, rfl, h1.le⟩
  | thirtyTwo _ _ h1 => exact ⟨hm, .w32, rfl, h1.le⟩

/-- The entries of full blocks of the given widths. -/
def blockEntries (bl : List Width) : List Nat := (blockWidths bl).map Width.bits

theorem blockEntries_concat (bl : List Width) (w : Width) :
    blockEntries (bl ++ [w]) = blockEntries bl ++ List.replicate w.blockInts w.bits := by
  simp [blockEntries, blockWidths]

theorem blockInts_le (w : Width) : w.blockInts ≤ 256 := by cases w <;> decide

/-- R84 to R89, R92: a scan that answers lowers no entry, and leaves the source's entries as whole blocks, the last perhaps
cut short, if the entries before its position were whole blocks. -/
theorem scan_ok {scope : PromoteScope} {se : Bool} {n p' : Nat} {ws' : List Nat} : ∀ {fuel p : Nat} {ws : List Nat}
    {bl : List Width}, scan scope se n fuel p ws = .ok (p', ws') → ws.length = n + 256 → Bounded ws →
    p = (blockEntries bl).length → ws.take p = blockEntries bl →
    Raised ws ws' ∧ ∃ bl', n ≤ (blockEntries bl').length ∧ ws'.take n = (blockEntries bl').take n
  | 0, _, _, _, h, _, _, _, _ => by cases h
  | fuel + 1, p, ws, bl, h, hlen, hb, hp, hpre => by
    unfold scan at h
    split at h
    case isTrue hn =>
      cases h
      refine ⟨Raised.refl _, bl, by omega, ?_⟩
      rw [← hpre, List.take_take, Nat.min_eq_left hn]
    case isFalse hn =>
    split at h
    case h_1 width hse =>
      simp only [Except.ok.injEq, Prod.mk.injEq] at h
      obtain ⟨-, rfl⟩ := h
      have hshort : shortEndWidth (n - p) (maxEntry (window ws p (n - p))) = some width := by
        split at hse
        · exact hse
        · cases hse
      obtain ⟨hle, w, rfl, hrem⟩ := shortEndWidth_some hshort (maxEntry_le fun x hx => hb x (mem_of_mem_window hx))
      refine ⟨raised_mapWindow fun x hx => (le_maxEntry hx).trans hle, bl ++ [w], ?_, ?_⟩
      · simp only [blockEntries_concat, List.length_append, List.length_replicate]
        omega
      · have hfill := take_mapWindow_const (c := w.bits) (show p + (n - p) ≤ ws.length by omega)
        rw [show p + (n - p) = n by omega] at hfill
        rw [hfill, hpre, blockEntries_concat, List.take_append, ← hp, List.take_of_length_le (by omega),
          List.take_replicate, Nat.min_eq_left hrem]
    case h_2 =>
    split at h
    case h_1 => cases h
    case h_2 w hw =>
    have hw := ofBits?_some hw
    have hN := blockInts_le w
    split at h
    case isTrue hany =>
      obtain ⟨x, hx, hlt⟩ := List.any_eq_true.mp hany
      have hlt32 : w.bits < 32 := lt_of_lt_of_le (by simpa using hlt) (hb x (mem_of_mem_window hx))
      obtain ⟨f, len, heq, hf⟩ := promoteStep_window scope (by omega) hw hb hlt32
      rw [heq] at h
      have hr := raised_mapWindow fun x hx => (hf x hx).1
      obtain ⟨hr', hend⟩ := scan_ok h (hr.length_eq ▸ hlen) (bounded_mapWindow hb fun x hx => (hf x hx).2) hp
        (by rw [take_mapWindow (by omega), hpre])
      exact ⟨hr.trans hr', hend⟩
    case isFalse hany =>
      have hall : ∀ x ∈ window ws p w.blockInts, x ≤ w.bits := by simpa using hany
      have hle : w.bits ≤ 32 := by cases w <;> decide
      have hr := raised_mapWindow (f := fun _ => w.bits) hall
      obtain ⟨hr', hend⟩ := scan_ok (bl := bl ++ [w]) h (hr.length_eq ▸ hlen) (bounded_mapWindow hb fun _ _ => hle)
        (by simp only [blockEntries_concat, List.length_append, List.length_replicate, hp])
        (by rw [take_mapWindow_const (by omega), hpre, blockEntries_concat])
      exact ⟨hr.trans hr', hend⟩

/-! ### The encoder's stages -/

/-- R77, R79: a value fits the field of its width, or it is the 1 that width 0 marks. -/
theorem classify_holds (v : Word) :
    (classify v = .w0 ∧ v.toNat = 1) ∨ (1 ≤ (classify v).bits ∧ v.toNat < 2 ^ (classify v).bits) := by
  have hv := v.isLt
  generalize hw : classify v = w
  unfold classify at hw
  rcases ite_eq_iff.mp hw with ⟨hone, rfl⟩ | ⟨-, hw⟩
  · exact .inl ⟨rfl, hone⟩
  · refine .inr ?_
    iterate 13
      rcases ite_eq_iff.mp hw with ⟨hle, rfl⟩ | ⟨-, hw⟩
      · exact ⟨by decide, by simp only [Width.bits]; omega⟩
    subst hw
    exact ⟨by decide, hv⟩

/-- R79: every width from the classified one up gives the value back. -/
theorem givesBack_of_classify_le {v : Word} {w : Width} (h : (classify v).bits ≤ w.bits) : GivesBack w v.toNat := by
  unfold GivesBack
  rcases classify_holds v with ⟨-, hone⟩ | ⟨hpos, hlt⟩
  · split
    · exact hone
    · rename_i hw
      have : w.bits ≠ 0 := by cases w <;> simp_all [Width.bits]
      rw [hone]
      exact Nat.one_lt_two_pow this
  · rw [if_neg (by rintro rfl; exact absurd (hpos.trans h) (by decide))]
    exact lt_of_lt_of_le hlt (Nat.pow_le_pow_right (by omega) h)

theorem toWidths_ok : ∀ {l : List Nat} {i : Nat} {ws : List Width}, toWidths i l = .ok ws → l = ws.map Width.bits
  | [], _, _, h => by cases h; rfl
  | x :: xs, i, ws, h => by
    unfold toWidths at h
    split at h
    · cases h
    · rename_i w hw
      split at h
      · cases h
      · rename_i ws' hws'
        cases h
        rw [List.map_cons, ofBits?_some hw, ← toWidths_ok hws']

theorem bits_injective : Function.Injective Width.bits := fun a b h =>
  Option.some.inj (by rw [← ofBits?_bits, h, ofBits?_bits])

theorem length_initWidths (src : List Word) : (initWidths src).length = src.length + 256 := by
  rw [initWidths, List.length_append, List.length_map, List.length_replicate, Config.wMargin]

theorem bounded_initWidths (src : List Word) : Bounded (initWidths src) := by
  intro x hx
  have hbits : ∀ w : Width, w.bits ≤ 32 := fun w => by cases w <;> decide
  rcases List.mem_append.mp hx with hx | hx
  · obtain ⟨v, -, rfl⟩ := List.mem_map.mp hx
    exact hbits _
  · rw [List.eq_of_mem_replicate hx]
    omega

/-- R149: what the encoder's stages make of a source array: runs that tile it, and their payload, selectors, padding and
trailer. -/
theorem encodeBuffer_ok {scope : PromoteScope} {se : Bool} {src : List Word} {r : Encoded}
    (h : encodeBuffer scope se src = .ok r) :
    Tiles src 0 r.runs ∧ r.payload = r.runs.flatMap (runPayload src) ∧ r.sels = r.runs.flatMap runSelectors ∧
      r.pad = padLen r.payload.length r.sels.length ∧
      r.trlVal = r.sels.length + r.pad + trailerLen (r.sels.length + r.pad) := by
  unfold encodeBuffer at h
  split at h
  · cases h
  · rename_i pos ws hpromote
    split at h
    · cases h
    · rename_i widths hwidths
      cases h
      refine ⟨?_, rfl, rfl, rfl, rfl⟩
      obtain ⟨hraised, hbound⟩ := raised_pass1Groups (g := (src.length + 3) / 4) (bounded_initWidths src)
      obtain ⟨hscan, bl, hn, hbl⟩ := scan_ok (bl := []) hpromote
        (by rw [pass1, ← hraised.length_eq, length_initWidths]) hbound rfl rfl
      have htake := List.forall₂_take src.length (Raised.trans hraised hscan)
      rw [toWidths_ok hwidths, initWidths, List.take_left' (by simp), List.forall₂_map_left_iff,
        List.forall₂_map_right_iff] at htake
      rw [toWidths_ok hwidths, blockEntries, ← List.map_take] at hbl
      have hw : widths = (blockWidths bl).take src.length := List.map_injective_iff.mpr bits_injective hbl
      subst hw
      refine tiles_runsFrom (Nat.zero_add _) (by simpa [blockEntries] using hn) (fun j w hj => ?_)
      obtain ⟨hj', rfl⟩ := List.getElem?_eq_some_iff.mp hj
      have hsrc : j < src.length := by rw [htake.length_eq]; exact hj'
      have hle := htake.get hsrc hj'
      have hgives := givesBack_of_classify_le hle
      simpa [sourceAt, List.getD_eq_getElem?_getD, hsrc] using hgives

end Sys2Proof.Machine
end

section
/-! PROOFS. DECODE of the buffer ENCODE makes of a source array is the source array (R2, R120). -/

namespace Sys2Proof.Machine

/-- R73, R97, R140: the encoder's buffer: the payload and the selector bytes of selectors that cover the source array, the
padding, and the trailer of a value V = K + P + T that exceeds their count by at most 21. -/
theorem encodeBuffer_layout {scope : PromoteScope} {se : Bool} {src : List Word} {r : Encoded}
    (h : encodeBuffer scope se src = .ok r) :
    ∃ l, Selects src 0 l ∧ r.payload = selectorsPayload src l 0 ∧
      r.sels = l.map (fun x => selectorByte x.1 x.2) ∧ r.trlVal = l.length + r.pad + vlen r.trlVal ∧
      r.bytes.length = r.payload.length + r.trlVal ∧ r.trlVal ≤ src.length + 21 := by
  obtain ⟨htiles, hpayload, hsels, hpad, hval⟩ := encodeBuffer_ok h
  obtain ⟨hselects, hbytes⟩ := htiles.selects
  have hsels' : r.sels = (r.runs.flatMap Run.selectors).map (fun x => selectorByte x.1 x.2) := by
    rw [hsels, funext runSelectors_eq, List.map_flatMap]
  have hcount : r.sels.length = (r.runs.flatMap Run.selectors).length := by rw [hsels', List.length_map]
  have hvlen := vlen_trailerLen (r.sels.length + r.pad)
  rw [← hval] at hvlen
  rw [← hvlen, hcount] at hval
  have hpadle : r.pad ≤ 16 := hpad ▸ (padFrom_le _ _).trans (by omega)
  have hle := vlen_le r.trlVal
  have hlen := hselects.length_le
  refine ⟨_, hselects, hpayload.trans hbytes, hsels', hval, ?_, by omega⟩
  simp only [Encoded.bytes, List.length_append, List.length_replicate, vbyteEnc_length, hcount]
  omega

theorem decodeChecks_of_admitted {s : State} (h : DecodeAdmitted s) : decodeChecks s = none := by
  obtain ⟨h1, h2, h3, h4, h5⟩ := h
  have hsrc : rangeWraps (wordSource s) = false := decide_eq_false (not_lt.mpr h3)
  have hdst : rangeWraps (decodeDest s) = false := decide_eq_false (not_lt.mpr h4)
  have hover : rangesOverlap (wordSource s) (decodeDest s) = false := by
    simp only [rangesOverlap, Bool.and_eq_false_iff, decide_eq_false_iff_not]
    simp only [wordSource, decodeDest]
    omega
  simp [decodeChecks, h1, h2, hsrc, hdst, hover]

/-- R145, R150: the step of an admitted DECODE whose trailer is good. -/
theorem step_decode {s : State} {v t : Nat} (hhost : s.host = []) (hphase : s.phase = .started) (hop : s.op = 2)
    (hadm : DecodeAdmitted s) (hdec : vbyteDec s s.sa.toNat (4 * s.sl.toNat) = .ok (v, t)) (htv : t ≤ v)
    (hv : v ≤ 4 * s.sl.toNat) : step s = .next (endIfDone (enterUnpack s v t)) := by
  have hcommand : decodeCommand s.op = .ok .cmdDecode := by rw [hop]; decide
  have hturn : nextTurn s = .run .cmdDecode s := by
    simp only [nextTurn, hhost, engineTurn, hphase, fetchCommand, hcommand]
  have hrun : runDecode s = .ok (endIfDone (enterUnpack s v t)) := by
    simp only [runDecode, decodeChecks_of_admitted hadm, hdec, if_neg (not_lt.mpr htv), if_neg (not_lt.mpr hv)]
  rw [step_of_run hturn]
  change finish decodeDest (runDecode s) = _
  rw [hrun, finish_ok]

theorem loopEntry_enterUnpack {src : List Word} {s : State} {v t : Nat} (hadm : DecodeAdmitted s)
    (hsrc : NoBusErr s.params (wordSource s)) (hdst : NoBusErr s.params (decodeDest s)) (hdl : s.dl.toNat = src.length)
    (hhost : s.host = []) (hpos : 0 < v) (hv : v ≤ 4 * s.sl.toNat) : LoopEntry src (enterUnpack s v t) where
  admitted := ⟨hadm.srcAligned, hadm.dstAligned, hadm.srcLegal, hadm.dstLegal, hadm.apart⟩
  sourceAnswers := hsrc
  destAnswers := hdst
  outputCount := hdl
  unpacking := rfl
  hostQuiet := hhost
  bufLen := rfl
  selStart_lt := by simp only [enterUnpack_selStart, enterUnpack_bufLen]; omega

/-- R115: the state in which DECODE enters its selector loop stands at the beginning of the array. -/
theorem loopAt_enterUnpack {src : List Word} {s : State} {v t : Nat} (hm : Memory.wf s.mem = true) :
    LoopAt src (enterUnpack s v t) (enterUnpack s v t) 0 :=
  ⟨by rw [Nat.zero_min]; rfl, hm, fun _ _ => rfl, fun _ h => absurd h (Nat.not_lt_zero _)⟩

/-- Settles O60: the first step reads the trailer and enters the selector loop, and the loop runs through the encoder's
selectors. -/
theorem decodeOfEncodeIsTheSource : Obligations.DecodeOfEncodeIsTheSource := by
  intro scope se src r s hr hinv hhost hphase hop hadm hlen hdl hbytes hsrc hdst
  obtain ⟨l, hselects, hpayload, hsels, hval, hsize, hsmall⟩ := encodeBuffer_layout hr
  obtain ⟨-, herr⟩ := hinv.busyFlags (by simp [State.busy, hphase])
  have hexist := hadm.srcLegal
  have hdlegal := hadm.dstLegal
  have hK : r.sels.length = l.length := by rw [hsels, List.length_map]
  have hT := vlen_pos r.trlVal
  rw [Encoded.bytes, bytesAt_append, bytesAt_append, bytesAt_append] at hbytes
  obtain ⟨⟨⟨hpay, hsel⟩, -⟩, htrailer⟩ := hbytes
  simp only [List.length_append, List.length_replicate, hK] at htrailer
  have hdec : vbyteDec s s.sa.toNat (4 * s.sl.toNat) = .ok (r.trlVal, vlen r.trlVal) := by
    refine vbyteDec_of_bytesAt (by omega) (by omega) hexist
      (fun a ha => hsrc a (mem_wordSource.mpr (by obtain ⟨h1, h2⟩ := ha; simp only at h1 h2; omega))) ?_
    rwa [show 4 * s.sl.toNat - vlen r.trlVal = r.payload.length + l.length + r.pad by omega]
  have hstart : 4 * s.sl.toNat - r.trlVal = r.payload.length := by omega
  obtain ⟨k, t, b, hrun, hloop, hb⟩ := LoopAt.run_to_end
    (loopEntry_enterUnpack (t := vlen r.trlVal) hadm hsrc hdst hdl hhost (show 0 < r.trlVal by omega) (by omega)) hselects
    (loopAt_enterUnpack hinv.mem)
    (by simpa [hpayload] using hpay) (by simp [← hpayload, hstart])
    (by simpa [hsels, hstart] using hsel) (by simp only [enterUnpack_sc, enterUnpack_bufLen, enterUnpack_trlLen]; omega)
  refine ⟨k + 1, _, (core_run_succ k (step_decode hhost hphase hop hadm hdec (by omega) (by omega))).trans hrun, ?_, ?_,
    ?_, ?_, ?_, fun i v hv => ?_, fun a ha => ?_⟩
  · rfl
  · rfl
  · rw [complete_err, hloop.rest]
    exact herr
  · rw [complete_result0, enterUnpack_selStart, hstart]
  · rw [complete_result1, enterUnpack_selStart, hstart]
  · obtain ⟨hi, rfl⟩ := List.getElem?_eq_some_iff.mp hv
    exact (hloop.outputs i (by omega) hi).trans (by simp [sourceAt, List.getD_eq_getElem?_getD, hi])
  · rw [complete_mem, hloop.frame a ha, enterUnpack_mem]

end Sys2Proof.Machine
end

section
/-! PROOFS. No step changes the parameters (R7). -/

namespace Sys2Proof.Machine

@[simp] theorem endIfDone_params (s : State) : (endIfDone s).params = s.params := by
  unfold endIfDone
  split <;> rfl

@[simp] theorem finishBreached_params (s : State) : (finishBreached s).params = s.params := by
  unfold finishBreached
  split <;> rfl

/-- A command's work keeps the parameters where it succeeds and where it raises an error. -/
def KeepsParams (s : State) (x : Res State) : Prop :=
  (∀ t, x = .ok t → t.params = s.params) ∧ ∀ t e info, x = .error (.raise t e info) → t.params = s.params

theorem KeepsParams.ok {s t : State} (h : t.params = s.params) : KeepsParams s (.ok t) :=
  ⟨fun _ ht => by cases ht; exact h, fun _ _ _ ht => by cases ht⟩

theorem KeepsParams.raise {s t : State} (e : ErrCode) (info : Nat) (h : t.params = s.params) :
    KeepsParams s (.error (.raise t e info)) :=
  ⟨fun _ ht => (by cases ht), fun _ _ _ ht => by cases ht; exact h⟩

theorem KeepsParams.fault (s : State) (f : Fault) : KeepsParams s (.error (.fault f)) :=
  ⟨fun _ ht => (by cases ht), fun _ _ _ ht => by cases ht⟩

theorem finish_params {d : State → Range} {x : Res State} {s t : State} (hx : KeepsParams s x)
    (h : finish d x = .next t) : t.params = s.params := by
  rcases finish_next h with hok | ⟨u, e, info, herr, rfl⟩
  · exact hx.1 t hok
  · rw [raiseError_params]
    exact hx.2 u e info herr

theorem runEncode_params (s : State) : KeepsParams s (runEncode s) := by
  cases h : runEncode s with
  | ok t =>
    obtain ⟨r, u, -, -, hw, rfl⟩ := runEncode_ok h
    exact .ok (by rw [complete_params, hw.rest, withEncodeScratch_params])
  | error e =>
    unfold runEncode at h
    split at h
    case h_1 hplan =>
      cases h
      rcases planEncode_error hplan with ⟨t, e, info, rfl, rfl | ⟨r, rfl⟩⟩ | ⟨-, -, rfl⟩
      · exact .raise e info rfl
      · exact .raise e info rfl
      · exact .fault s _
    case h_2 r _ =>
      split at h
      case h_1 hwrite =>
        cases h
        rcases writeAll_error hwrite with ⟨t, a, rfl, hw⟩ | ⟨-, rfl⟩
        · exact .raise _ a (by rw [hw.rest, withEncodeScratch_params])
        · exact .fault s _
      case h_2 => cases h

theorem runDecode_params (s : State) : KeepsParams s (runDecode s) := by
  cases h : runDecode s with
  | ok t =>
    obtain ⟨v, n, -, -, -, -, rfl⟩ := runDecode_ok h
    exact .ok (by rw [endIfDone_params, enterUnpack_params])
  | error e =>
    rcases runDecode_error h with ⟨err, info, rfl⟩ | ⟨-, -, rfl⟩
    · exact .raise err info rfl
    · exact .fault s _

theorem runVbyteDec_params (s : State) : KeepsParams s (runVbyteDec s) := by
  rcases runVbyteDec_cases s with ⟨v, n, h, -⟩ | ⟨e, info, h⟩ <;> rw [h]
  · exact .ok rfl
  · exact .raise e info rfl

/-- R115: past the output count a selector unpacks nothing. -/
theorem runSelector_of_dl_le {w : Width} {count : Nat} {s : State} (h : s.dl.toNat ≤ s.oc) :
    runSelector w count s = .ok (endIfDone { s with sc := s.sc + 1 }) := by
  cases count <;> simp [runSelector, unpackBlocks, h]

theorem runSelector_params (w : Width) (count : Nat) (s : State) : KeepsParams s (runSelector w count s) := by
  rcases le_total s.dl.toNat s.oc with hoc | hoc
  · rw [runSelector_of_dl_le hoc]
    exact .ok (endIfDone_params _)
  · rcases runSelector_cases w count s hoc with ⟨u, h, hu, -⟩ | ⟨u, e, info, h, hu, -⟩ | ⟨-, h⟩ <;> rw [h]
    · exact .ok (by rw [endIfDone_params, hu.rest])
    · exact .raise e info (by rw [hu.rest])
    · exact .fault s _

theorem exec_params {i : Instr} {s t : State} (h : exec i s = .next t) : t.params = s.params := by
  cases i with
  | cmdEncode => exact finish_params (runEncode_params s) h
  | cmdDecode => exact finish_params (runDecode_params s) h
  | cmdVbyteDec => exact finish_params (runVbyteDec_params s) h
  | cmdClassify | cmdVbyteEnc => cases h; rfl
  | selW0 c | selW1 c | selW2 c | selW3 c | selW4 c | selW5 c | selW6 c | selW7 c | selW8 c | selW9 c | selW10 c
  | selW12 c | selW16 c | selW21 c | selW32 c => exact finish_params (runSelector_params _ c s) h

/-- What a turn leaves at the parameters: it answers with them, or runs an instruction at a state that has them. -/
def TurnKeepsParams (p : Params) : Turn → Prop
  | .run _ s => s.params = p
  | .answer o => ∀ t, o = .next t → t.params = p

theorem fetchCommand_params (s : State) : TurnKeepsParams s.params (fetchCommand s) := by
  unfold fetchCommand
  split
  · rfl
  · intro t ht
    cases ht
    exact raiseError_params ..

theorem fetchSelector_params (s : State) : TurnKeepsParams s.params (fetchSelector s) := by
  unfold fetchSelector
  split
  · intro t ht
    cases ht
    rfl
  split
  · intro t ht
    cases ht
    exact raiseError_params ..
  split
  case h_1 e he =>
    refine fun t ht => finish_params ?_ ht
    rcases memRead_error he with rfl | ⟨-, rfl⟩
    · exact .raise _ _ rfl
    · exact .fault s _
  case h_2 =>
    split
    · rfl
    · intro t ht
      cases ht
      exact raiseError_params ..

theorem engineTurn_params (s : State) : TurnKeepsParams s.params (engineTurn s) := by
  unfold engineTurn
  split
  · intro t ht; cases ht; rfl
  · exact fetchCommand_params s
  · exact fetchSelector_params s
  · intro t ht
    cases ht
    exact finishBreached_params s

theorem writeReg_params (s : State) (r : Reg) (v : Word) : (writeReg s r v).params = s.params := by
  cases r <;> simp only [writeReg]
  case ctrl => unfold writeCtrl; split <;> rfl
  case cmd => unfold writeCmd; split <;> rfl
  case status => rfl

theorem hostRegWrite_params {s t : State} {w : AccessWidth} {addr v : Word} (h : hostRegWrite s w addr v = .next t) :
    t.params = s.params := by
  unfold hostRegWrite at h
  split at h <;> cases h
  unfold writeOffset
  split
  · exact writeReg_params ..
  · rfl

theorem hostRegRead_params {s t : State} {w : AccessWidth} {addr : Word} (h : hostRegRead s w addr = .next t) :
    t.params = s.params := by
  unfold hostRegRead at h
  split at h <;> cases h
  rfl

theorem hostMemWrite_params {s t : State} {a : Nat} {v : Byte} (h : hostMemWrite s a v = .next t) :
    t.params = s.params := by
  unfold hostMemWrite at h
  split at h
  · cases h
  · split at h <;> cases h
    · exact hostBreach_params _
    · rfl

theorem hostMemRead_params {s t : State} {a : Nat} (h : hostMemRead s a = .next t) : t.params = s.params := by
  unfold hostMemRead at h
  split at h
  · cases h
  · split at h <;> cases h
    · exact hostBreach_params s
    · rfl

theorem nextTurn_params (s : State) : TurnKeepsParams s.params (nextTurn s) := by
  rcases nextTurn_cases s with ⟨-, h⟩ | ⟨a, rest, -, h⟩ <;> rw [h]
  · have := engineTurn_params (afterTurn s)
    rwa [afterTurn_params] at this
  · intro t ht
    cases a with
    | regWrite w addr v => exact hostRegWrite_params (s := { s with host := rest }) ht
    | regRead w addr => exact hostRegRead_params (s := { s with host := rest }) ht
    | memWrite addr v => exact hostMemWrite_params (s := { s with host := rest }) ht
    | memRead addr => exact hostMemRead_params (s := { s with host := rest }) ht
    | irqRead | hwReset | engineTurn | wait => cases ht; rfl

/-- Settles O59: what a turn runs or answers has the state's parameters, and every instruction keeps them. -/
theorem parametersNeverChange : Obligations.ParametersNeverChange := by
  intro s t h
  have hturn := nextTurn_params s
  unfold step at h
  split at h
  case h_1 i s' hrun =>
    rw [hrun] at hturn
    exact (exec_params h).trans hturn
  case h_2 o hans =>
    rw [hans] at hturn
    exact hturn t h

end Sys2Proof.Machine
end

section
/-! PROOFS. Every step keeps the invariant (R24, R25, R38, R39, R154, R175), and every turn of the engine goes on to an end
(R178). -/

namespace Sys2Proof.Machine

/-! ### What the invariant does not speak of -/

theorem DecodeContext.congr {s t : State} (h : DecodeContext s)
    (ht : t = { s with
      ie := t.ie, shortEnd := t.shortEnd, done := t.done, err := t.err, cmdLost := t.cmdLost, errcode := t.errcode,
      srcAddr := t.srcAddr, srcLen := t.srcLen, dstAddr := t.dstAddr, dstLen := t.dstLen, arg := t.arg, mem := t.mem,
      host := t.host, unseen := t.unseen, rdata := t.rdata }) : DecodeContext t := by
  rw [ht]
  exact ⟨h.op, h.checks, h.bufLen, h.trlLen_pos, h.trlLen_le, h.trlLen_le_val, h.trlVal_le, h.selStart, h.sc_ge, h.sc_le,
    h.pp_le, h.oc_lt⟩

/-- The host's own registers and actions, and an admissible write of memory, leave the invariant. -/
theorem Inv.congr {s t : State} (h : Inv s)
    (ht : t = { s with
      ie := t.ie, shortEnd := t.shortEnd, cmdLost := t.cmdLost, srcAddr := t.srcAddr, srcLen := t.srcLen,
      dstAddr := t.dstAddr, dstLen := t.dstLen, arg := t.arg, mem := t.mem, host := t.host, unseen := t.unseen,
      rdata := t.rdata })
    (hm : Memory.wf t.mem = true) : Inv t := by
  have hdec : t.phase = .unpack → DecodeContext t := fun hp =>
    (h.decode (by rw [ht] at hp; exact hp)).congr (by rw [ht])
  rw [ht] at hdec ⊢
  exact ⟨hm, h.params, h.doneErr, h.busyFlags, h.busyErrinfo, h.errcodeClear, h.errcodeKnown, h.opIsCmd,
    h.startedClean, hdec⟩

/-! ### The host's actions -/

theorem inv_resetTo {s : State} (h : Inv s) {m : Memory} (hm : Memory.wf m = true) : Inv (resetTo s m) where
  mem := hm
  params := h.params
  doneErr := by simp [State.reset, resetTo]
  busyFlags := fun hb => by cases hb
  busyErrinfo := fun hb => by cases hb
  errcodeClear := fun _ => rfl
  errcodeKnown := fun he => by cases he
  opIsCmd := fun hb => by cases hb
  startedClean := fun hp => by cases hp
  decode := fun hp => by cases hp

theorem inv_acknowledge {s : State} (h : Inv s) (v : Word) : Inv (acknowledge s v) := by
  have hdec : (acknowledge s v).phase = .unpack → DecodeContext (acknowledge s v) := fun hp => (h.decode hp).congr rfl
  refine ⟨h.mem, h.params, ?_, ?_, h.busyErrinfo, ?_, ?_, h.opIsCmd, h.startedClean, hdec⟩
  · have := h.doneErr
    simp only [acknowledge]
    grind
  · intro hb
    obtain ⟨hd, he⟩ := h.busyFlags hb
    simp [acknowledge, hd, he]
  · intro he
    have := h.errcodeClear
    simp only [acknowledge] at he ⊢
    grind
  · intro he
    have := h.errcodeKnown
    simp only [acknowledge] at he ⊢
    grind

theorem inv_startCommand {s : State} (h : Inv s) (cw : Word) : Inv (startCommand s cw) where
  mem := h.mem
  params := h.params
  doneErr := by simp
  busyFlags := fun _ => ⟨rfl, rfl⟩
  busyErrinfo := fun _ => rfl
  errcodeClear := fun _ => rfl
  errcodeKnown := fun he => by cases he
  opIsCmd := fun _ => rfl
  startedClean := fun _ => rfl
  decode := fun hp => by cases hp

theorem inv_writeReg {s : State} (h : Inv s) (r : Reg) (v : Word) : Inv (writeReg s r v) := by
  cases r with
  | ctrl =>
    simp only [writeReg, writeCtrl]
    split
    · exact inv_resetTo h (abortedMemory_wf h.mem)
    · exact h.congr rfl h.mem
  | status => exact inv_acknowledge h v
  | cmd =>
    simp only [writeReg, writeCmd]
    split
    · exact h.congr rfl h.mem
    · exact inv_startCommand h v
  | id | result0 | result1 | errinfo => exact h
  | srcAddr | srcLen | dstAddr | dstLen | arg => exact h.congr rfl h.mem

theorem inv_breach {s : State} (h : Inv s) (hb : s.busy = true) : Inv (breach s) where
  mem := breachedMemory_wf h.mem
  params := h.params
  doneErr := h.doneErr
  busyFlags := fun _ => h.busyFlags hb
  busyErrinfo := fun _ => h.busyErrinfo hb
  errcodeClear := h.errcodeClear
  errcodeKnown := h.errcodeKnown
  opIsCmd := fun _ => h.opIsCmd hb
  startedClean := fun hp => by cases hp
  decode := fun hp => by cases hp

theorem phase_of_not_busy {s : State} (h : s.busy = false) : s.phase = .idle := by simpa [State.busy] using h

theorem inv_lateBreach {s : State} (h : Inv s) (hb : s.busy = false) : Inv (lateBreach s) := by
  obtain ⟨hflags, hclear, hknown⟩ := lateBreach_flags s
  have hidle : s.phase = .idle := phase_of_not_busy hb
  have hbusy : (lateBreach s).busy = false := hb
  exact ⟨breachedMemory_wf h.mem, h.params, hflags, by simp [hbusy], by simp [hbusy], hclear, hknown, by simp [hbusy],
    by simp [hidle], by simp [hidle]⟩

theorem inv_hostBreach {s : State} (h : Inv s) : Inv (hostBreach s) := by
  rcases hostBreach_cases s with ⟨hb, heq⟩ | ⟨hb, heq⟩ <;> rw [heq]
  · exact inv_breach h hb
  · exact inv_lateBreach h hb

theorem inv_hostRegWrite {s t : State} {w : AccessWidth} {addr v : Word} (h : Inv s)
    (ht : hostRegWrite s w addr v = .next t) : Inv t := by
  unfold hostRegWrite at ht
  split at ht <;> cases ht
  unfold writeOffset
  split
  · exact inv_writeReg h _ v
  · exact h

theorem inv_hostRegRead {s t : State} {w : AccessWidth} {addr : Word} (h : Inv s)
    (ht : hostRegRead s w addr = .next t) : Inv t := by
  unfold hostRegRead at ht
  split at ht <;> cases ht
  exact h.congr rfl h.mem

theorem inv_hostMemWrite {s t : State} {a : Nat} {v : Byte} (h : Inv s) (ha : a < 2 ^ 32)
    (ht : hostMemWrite s a v = .next t) : Inv t := by
  have hwrite : Inv { s with mem := Memory.write s.mem a v } := h.congr rfl (write_wf h.mem ha v)
  unfold hostMemWrite at ht
  split at ht
  · cases ht
  · split at ht <;> cases ht
    · exact inv_hostBreach hwrite
    · exact hwrite

theorem inv_hostMemRead {s t : State} {a : Nat} (h : Inv s) (ht : hostMemRead s a = .next t) : Inv t := by
  unfold hostMemRead at ht
  split at ht
  · cases ht
  · split at ht <;> cases ht
    · have hbreach := inv_hostBreach h
      exact hbreach.congr rfl hbreach.mem
    · exact h.congr rfl h.mem

/-! ### The engine at work -/

/-- `u` is reached from `s` by the work of a command: only memory, kept in its canonical form, the phase, the note that it
wrote, the scratch and the decoder's context differ. -/
structure Working (s u : State) : Prop where
  rest : u = { s with
    phase := u.phase, wrote := u.wrote, widths := u.widths, selbuf := u.selbuf, p := u.p, rs := u.rs, rl := u.rl, b := u.b,
    ob := u.ob, bufLen := u.bufLen, trlLen := u.trlLen, trlVal := u.trlVal, selStart := u.selStart, sc := u.sc, pp := u.pp,
    oc := u.oc, mem := u.mem }
  wf : Memory.wf u.mem = true

/-- How one stretch of a command's work ends: the command completes, it raises an error, or DECODE stands in its selector
loop, with more output written if it stood there before. -/
inductive WorkEnds (s : State) : Res State → Prop where
  | completes {u : State} (r0 r1 : Nat) : Working s u → WorkEnds s (.ok (complete u r0 r1))
  | raises {u : State} (e : ErrCode) (info : Nat) : Working s u → WorkEnds s (.error (.raise u e info))
  | unpacks {u : State} : Working s u → u.phase = .unpack → DecodeContext u → (s.phase = .unpack → s.oc < u.oc) →
      WorkEnds s (.ok u)

/-- A turn of the engine at `s` answers with `t`: the invariant holds there, no host action is used, and a running command
ended, or is a DECODE that has output left and has written more. -/
structure TurnEnds (s t : State) : Prop where
  inv : Inv t
  host : t.host = s.host
  ends : t.busy = false ∨ (t.phase = .unpack ∧ t.dl = s.dl ∧ t.oc < t.dl.toNat ∧ (s.phase = .unpack → s.oc < t.oc))

theorem Working.refl {s : State} (h : Inv s) : Working s s := ⟨rfl, h.mem⟩

theorem Working.of_wroteOnly {s u t : State} {lo hi : Nat} (h : Working s u) (hw : WroteOnly lo hi u t) : Working s t := by
  refine ⟨?_, hw.wf h.wf⟩
  rw [hw.rest, h.rest]

theorem Working.of_unpackedOnly {s u t : State} (h : Working s u) (hu : UnpackedOnly u t) : Working s t := by
  refine ⟨?_, hu.wf h.wf⟩
  rw [hu.rest, h.rest]

theorem Working.withEncodeScratch {s u : State} (h : Working s u) (r : Encoded) : Working s (withEncodeScratch u r) := by
  refine ⟨?_, h.wf⟩
  rw [h.rest]
  rfl

theorem Working.enterUnpack {s u : State} (h : Working s u) (v t : Nat) : Working s (enterUnpack u v t) := by
  refine ⟨?_, h.wf⟩
  rw [h.rest]
  rfl

theorem code_known (e : ErrCode) : 1 ≤ e.code.toNat ∧ e.code.toNat ≤ 12 := by cases e <;> decide

theorem Inv.complete {s u : State} (h : Inv s) (hb : s.busy = true) (hu : Working s u) (r0 r1 : Nat) :
    Inv (complete u r0 r1) := by
  obtain ⟨-, herr⟩ := h.busyFlags hb
  have hclear := h.errcodeClear herr
  have hu_err : u.err = false := by rw [hu.rest]; exact herr
  have hu_code : u.errcode = 0 := by rw [hu.rest]; exact hclear
  have hu_params : u.params = s.params := by rw [hu.rest]
  exact ⟨hu.wf, hu_params ▸ h.params, by simp [hu_err], by simp [State.busy], by simp [State.busy], by simp [hu_code],
    by simp [hu_err], by simp [State.busy], by simp, by simp⟩

theorem Inv.raiseError {s u : State} (h : Inv s) (hb : s.busy = true) (hu : Working s u) (d : Range) (e : ErrCode)
    (info : Nat) : Inv (raiseError u d e info) := by
  obtain ⟨hdone, -⟩ := h.busyFlags hb
  have hu_done : u.done = false := by rw [hu.rest]; exact hdone
  have hu_params : u.params = s.params := by rw [hu.rest]
  exact ⟨raiseError_wf hu.wf, hu_params ▸ h.params, by simp [hu_done], by simp [State.busy], by simp [State.busy],
    by simp, by simpa using code_known e, by simp [State.busy], by simp, by simp⟩

theorem Inv.unpack {s u : State} (h : Inv s) (hb : s.busy = true) (hu : Working s u) (hphase : u.phase = .unpack)
    (hdec : DecodeContext u) : Inv u := by
  have hflags := h.busyFlags hb
  have hcode := h.errcodeClear hflags.2
  have hinfo := h.busyErrinfo hb
  have hcmd := h.opIsCmd hb
  have hfields : u.params = s.params ∧ u.done = s.done ∧ u.err = s.err ∧ u.errcode = s.errcode ∧
      u.errinfo = s.errinfo ∧ u.op = s.op ∧ u.cmd = s.cmd := by
    rw [hu.rest]
    exact ⟨rfl, rfl, rfl, rfl, rfl, rfl, rfl⟩
  obtain ⟨hp, hd, he, hc, hi, ho, hm⟩ := hfields
  exact ⟨hu.wf, hp ▸ h.params, by simp [hd, hflags.1], fun _ => ⟨hd.trans hflags.1, he.trans hflags.2⟩,
    fun _ => hi.trans hinfo, fun _ => hc.trans hcode, by simp [he, hflags.2], fun _ => (ho.trans hcmd).trans hm.symm,
    by simp [hphase], fun _ => hdec⟩

/-- A stretch of work that ends as it can answers, with the invariant kept. -/
theorem WorkEnds.finish {s : State} {x : Res State} (hx : WorkEnds s x) (h : Inv s) (hb : s.busy = true)
    (d : State → Range) : ∃ t, finish d x = .next t ∧ TurnEnds s t := by
  cases hx with
  | @completes u r0 r1 hu =>
    exact ⟨_, rfl, h.complete hb hu r0 r1, by rw [complete_host, hu.rest], .inl rfl⟩
  | @raises u e info hu =>
    exact ⟨_, rfl, h.raiseError hb hu _ e info, by rw [raiseError_host, hu.rest], .inl rfl⟩
  | @unpacks u hu hphase hdec hoc =>
    exact ⟨u, rfl, h.unpack hb hu hphase hdec, by rw [hu.rest], .inr ⟨hphase, by rw [hu.rest], hdec.oc_lt, hoc⟩⟩

/-! ### The commands -/

theorem rangeWraps_eq_false {r : Range} : rangeWraps r = false ↔ r.hi ≤ 2 ^ 32 := by simp [rangeWraps]

/-- R149: the ranges of an ENCODE whose static checks pass are legal. -/
theorem ranges_of_encodeChecks {s : State} (h : encodeChecks s = none) :
    s.sa.toNat + 4 * s.sl.toNat ≤ 2 ^ 32 ∧ s.da.toNat + s.dl.toNat ≤ 2 ^ 32 := by
  have hsrc : rangeWraps (wordSource s) = false := by unfold encodeChecks at h; grind
  have hdst : rangeWraps (encodeDest s) = false := by unfold encodeChecks at h; grind
  exact ⟨rangeWraps_eq_false.mp hsrc, rangeWraps_eq_false.mp hdst⟩

/-- R150: the ranges of a DECODE whose static checks pass are legal. -/
theorem ranges_of_decodeChecks {s : State} (h : decodeChecks s = none) :
    s.sa.toNat + 4 * s.sl.toNat ≤ 2 ^ 32 ∧ s.da.toNat + 4 * s.dl.toNat ≤ 2 ^ 32 := by
  have hsrc : rangeWraps (wordSource s) = false := by unfold decodeChecks at h; grind
  have hdst : rangeWraps (decodeDest s) = false := by unfold decodeChecks at h; grind
  exact ⟨rangeWraps_eq_false.mp hsrc, rangeWraps_eq_false.mp hdst⟩

theorem runEncode_workEnds {s : State} (h : Inv s) : WorkEnds s (runEncode s) := by
  cases hrun : runEncode s with
  | ok t =>
    obtain ⟨r, u, -, -, hw, rfl⟩ := runEncode_ok hrun
    exact .completes _ _ (((Working.refl h).withEncodeScratch r).of_wroteOnly hw)
  | error e =>
    unfold runEncode at hrun
    split at hrun
    case h_1 hplan =>
      cases hrun
      rcases planEncode_error hplan with ⟨t, e, info, rfl, rfl | ⟨r, rfl⟩⟩ | ⟨hchecks, hlt, -⟩
      · exact .raises e info (.refl h)
      · exact .raises e info ((Working.refl h).withEncodeScratch r)
      · exact absurd hlt (not_lt.mpr (ranges_of_encodeChecks hchecks).1)
    case h_2 r hplan =>
      obtain ⟨hchecks, hfits, -⟩ := planEncode_ok hplan
      have hdst := (ranges_of_encodeChecks hchecks).2
      split at hrun
      case h_1 hwrite =>
        cases hrun
        rcases writeAll_error hwrite with ⟨t, a, rfl, hw⟩ | ⟨hlt, -⟩
        · exact .raises _ a (((Working.refl h).withEncodeScratch r).of_wroteOnly hw)
        · rw [List.length_map] at hlt
          omega
      case h_2 => cases hrun

theorem decodeContext_enterUnpack {s : State} {v t : Nat} (hop : s.op = 2) (hchecks : decodeChecks s = none)
    (hpos : 1 ≤ t) (hle : t ≤ 5) (htv : t ≤ v) (hv : v ≤ 4 * s.sl.toNat) (hdl : 0 < s.dl.toNat) :
    DecodeContext (enterUnpack s v t) where
  op := hop
  checks := hchecks
  bufLen := rfl
  trlLen_pos := hpos
  trlLen_le := hle
  trlLen_le_val := htv
  trlVal_le := hv
  selStart := rfl
  sc_ge := le_refl _
  sc_le := by simp only [enterUnpack_sc, enterUnpack_bufLen, enterUnpack_trlLen]; omega
  pp_le := Nat.zero_le _
  oc_lt := hdl

theorem runDecode_workEnds {s : State} (h : Inv s) (hop : s.op = 2) (hphase : s.phase = .started) :
    WorkEnds s (runDecode s) := by
  cases hrun : runDecode s with
  | ok u =>
    obtain ⟨v, t, hchecks, hdec, htv, hv, rfl⟩ := runDecode_ok hrun
    have hu := (Working.refl h).enterUnpack v t
    rcases vbyteDec_cases s s.sa.toNat (4 * s.sl.toNat) with
      ⟨v', t', hdec', -, hpos, hle, -⟩ | ⟨info, herr, -⟩ | ⟨a, herr, -⟩ | ⟨-, herr⟩
    · obtain ⟨rfl, rfl⟩ : v = v' ∧ t = t' := by simpa [hdec] using hdec'
      unfold endIfDone
      split
      case isTrue => exact .completes _ _ hu
      case isFalse hdl =>
        exact .unpacks hu rfl (decodeContext_enterUnpack hop hchecks hpos hle htv hv (not_le.mp hdl))
          (by simp [hphase])
    all_goals rw [hdec] at herr; cases herr
  | error e =>
    rcases runDecode_error hrun with ⟨err, info, rfl⟩ | ⟨hchecks, hlt, -⟩
    · exact .raises err info (.refl h)
    · exact absurd hlt (not_lt.mpr (ranges_of_decodeChecks hchecks).1)

theorem runVbyteDec_workEnds {s : State} (h : Inv s) : WorkEnds s (runVbyteDec s) := by
  rcases runVbyteDec_cases s with ⟨v, t, hrun, -⟩ | ⟨e, info, hrun⟩ <;> rw [hrun]
  · exact .completes v t (.refl h)
  · exact .raises e info (.refl h)

/-! ### The selector loop -/

/-- R115, R116: a selector of one block or more keeps DECODE's context, with more output written, or ends DECODE. -/
theorem runSelector_workEnds {s : State} (h : Inv s) (hphase : s.phase = .unpack) {w : Width} {count : Nat}
    (hcount : 1 ≤ count) (hsc : s.sc < s.bufLen - s.trlLen) : WorkEnds s (runSelector w count s) := by
  have hctx := h.decode hphase
  have hoc := hctx.oc_lt
  rcases runSelector_cases w count s hoc.le with ⟨t, hrun, hu, htoc, -, htpp⟩ | ⟨t, e, info, hrun, hu, -⟩ | ⟨hlt, -⟩
  · have hmany : 1 ≤ count * w.blockInts :=
      Nat.mul_pos hcount (lt_of_lt_of_le (by omega) (blockInts_pos w))
    have hwork : Working s { t with sc := s.sc + 1 } := by
      refine ⟨?_, hu.wf h.mem⟩
      rw [hu.rest]
    rw [hrun]
    unfold endIfDone
    split
    case isTrue => exact .completes _ _ hwork
    case isFalse hdl =>
      refine .unpacks hwork (by rw [hu.rest]; exact hphase) ?_ (fun _ => by simp only; omega)
      have htpp := htpp hctx.pp_le
      simp only [not_le] at hdl
      rw [hu.rest] at hdl ⊢
      exact ⟨hctx.op, hctx.checks, hctx.bufLen, hctx.trlLen_pos, hctx.trlLen_le, hctx.trlLen_le_val, hctx.trlVal_le,
        hctx.selStart, Nat.le_succ_of_le hctx.sc_ge, hsc, htpp, hdl⟩
  · rw [hrun]
    exact .raises e info ((Working.refl h).of_unpackedOnly hu)
  · obtain ⟨hsrc, hdst⟩ := ranges_of_decodeChecks hctx.checks
    have hsel := hctx.selStart
    have hbuf := hctx.bufLen
    omega

/-! ### Turns -/

/-- R63: a command word is its OPCODE where every other bit is 0. -/
theorem eq_of_command_fields {cw : Word} {c : BitVec 4} (hmbz : cw.extractLsb' 4 28 = 0) (hop : cw.extractLsb' 0 4 = c) :
    cw = c.setWidth 32 := by
  subst hop
  have hz := congrArg BitVec.toNat hmbz
  have hlt := cw.isLt
  refine BitVec.eq_of_toNat_eq ?_
  simp only [BitVec.extractLsb'_toNat, Nat.shiftRight_eq_div_pow, BitVec.toNat_setWidth, BitVec.ofNat_eq_ofNat,
    BitVec.toNat_ofNat] at hz ⊢
  omega

/-- R63: the command words and their instructions. -/
theorem decodeCommand_ok {cw : Word} {i : Instr} (h : decodeCommand cw = .ok i) :
    (cw = 1 ∧ i = .cmdEncode) ∨ (cw = 2 ∧ i = .cmdDecode) ∨ (cw = 3 ∧ i = .cmdClassify) ∨ (cw = 4 ∧ i = .cmdVbyteEnc) ∨
      (cw = 5 ∧ i = .cmdVbyteDec) := by
  simp only [decodeCommand, ne_eq, ite_not] at h
  split_ifs at h with hz h1 h2 h3 h4 h5 <;> cases h
  · exact .inl ⟨eq_of_command_fields hz h1, rfl⟩
  · exact .inr (.inl ⟨eq_of_command_fields hz h2, rfl⟩)
  · exact .inr (.inr (.inl ⟨eq_of_command_fields hz h3, rfl⟩))
  · exact .inr (.inr (.inr (.inl ⟨eq_of_command_fields hz h4, rfl⟩)))
  · exact .inr (.inr (.inr (.inr ⟨eq_of_command_fields hz h5, rfl⟩)))

/-- R64, R65: a selector byte that decodes is a selector of 1 to 16 blocks. -/
theorem decodeSelector_ok {b : Byte} {i : Instr} (h : decodeSelector b = .ok i) :
    ∃ w c, i = Instr.sel w c ∧ 1 ≤ c ∧ c ≤ 16 := by
  unfold decodeSelector at h
  split at h
  · cases h
  · rename_i w _
    cases h
    have := (b.extractLsb' 0 4).isLt
    exact ⟨w, _, rfl, by unfold countOfField; omega, by unfold countOfField; omega⟩

/-- What a turn answers. -/
def Turn.outcome : Turn → Host.Outcome State Fault Refusal
  | .run i s => exec i s
  | .answer o => o

theorem step_eq_outcome (s : State) : step s = (nextTurn s).outcome := by
  unfold step
  split <;> rename_i h <;> rw [h] <;> rfl

/-- The engine's turn at `s` answers, and ends as it can. -/
def AnswersTurn (s : State) (o : Host.Outcome State Fault Refusal) : Prop := ∃ t, o = .next t ∧ TurnEnds s t

theorem fetchCommand_answers {s : State} (h : Inv s) (hphase : s.phase = .started) :
    AnswersTurn s (fetchCommand s).outcome := by
  have hb : s.busy = true := by simp [State.busy, hphase]
  unfold fetchCommand
  split
  case h_1 i hi =>
    rcases decodeCommand_ok hi with ⟨-, rfl⟩ | ⟨hop, rfl⟩ | ⟨-, rfl⟩ | ⟨-, rfl⟩ | ⟨-, rfl⟩
    · exact (runEncode_workEnds h).finish h hb _
    · exact (runDecode_workEnds h hop hphase).finish h hb _
    · exact (WorkEnds.completes _ _ (.refl h)).finish h hb noDest
    · exact (WorkEnds.completes _ _ (.refl h)).finish h hb noDest
    · exact (runVbyteDec_workEnds h).finish h hb _
  case h_2 => exact (WorkEnds.raises _ _ (.refl h)).finish h hb noDest

theorem fetchSelector_answers {s : State} (h : Inv s) (hphase : s.phase = .unpack) :
    AnswersTurn s (fetchSelector s).outcome := by
  have hb : s.busy = true := by simp [State.busy, hphase]
  have hctx := h.decode hphase
  unfold fetchSelector
  rw [if_neg (not_le.mpr hctx.oc_lt)]
  split
  case isTrue => exact (WorkEnds.raises _ _ (.refl h)).finish h hb decodeDest
  case isFalse hsc =>
    split
    case h_1 e he =>
      rcases memRead_error he with rfl | ⟨hlt, -⟩
      · exact (WorkEnds.raises _ _ (.refl h)).finish h hb decodeDest
      · have hsrc := (ranges_of_decodeChecks hctx.checks).1
        have hbuf := hctx.bufLen
        omega
    case h_2 =>
      split
      case h_1 i hi =>
        obtain ⟨w, c, rfl, hc, -⟩ := decodeSelector_ok hi
        simp only [Turn.outcome, exec_sel]
        exact (runSelector_workEnds h hphase hc (not_le.mp hsc)).finish h hb decodeDest
      case h_2 => exact (WorkEnds.raises _ _ (.refl h)).finish h hb decodeDest

theorem finishBreached_turnEnds {s : State} (h : Inv s) (hb : s.busy = true) : TurnEnds s (finishBreached s) := by
  obtain ⟨hdone, herr⟩ := h.busyFlags hb
  have hclear := h.errcodeClear herr
  have hmod : (Config.freeWord s.freeCtr 2).toNat % 12 < 12 := Nat.mod_lt _ (by decide)
  have hwf := breachedMemory_wf h.mem
  unfold finishBreached
  split
  · exact ⟨⟨hwf, h.params, by simp [herr], by simp [State.busy], by simp [State.busy], fun _ => hclear, by simp [herr],
      by simp [State.busy], by simp, by simp⟩, rfl, .inl rfl⟩
  · exact ⟨⟨hwf, h.params, by simp [hdone], by simp [State.busy], by simp [State.busy], by simp, by simp; omega,
      by simp [State.busy], by simp, by simp⟩, rfl, .inl rfl⟩

/-- R168, R170, R178: the engine's turn always answers: an idle engine waits, and a running command ends or goes on. -/
theorem engineTurn_answers {s : State} (h : Inv s) : AnswersTurn s (engineTurn s).outcome := by
  unfold engineTurn
  cases hphase : s.phase with
  | idle => exact ⟨s, rfl, h, rfl, .inl (by simp [State.busy, hphase])⟩
  | started => exact fetchCommand_answers h hphase
  | unpack => exact fetchSelector_answers h hphase
  | breached => exact ⟨_, rfl, finishBreached_turnEnds h (by simp [State.busy, hphase])⟩

theorem inv_afterTurn {s : State} (h : Inv s) : Inv (afterTurn s) := by
  unfold afterTurn
  split
  · exact h.congr rfl h.mem
  · exact h

/-- Settles O52: a host action keeps the invariant, and so does every turn of the engine. -/
theorem everyStepKeepsTheInvariant : Obligations.EveryStepKeepsTheInvariant := by
  intro s t h hstep
  rw [step_eq_outcome] at hstep
  rcases nextTurn_cases s with ⟨-, hturn⟩ | ⟨a, rest, -, hturn⟩ <;> rw [hturn] at hstep
  · obtain ⟨t', ht', hend⟩ := engineTurn_answers (inv_afterTurn h)
    rw [ht'] at hstep
    cases hstep
    exact hend.inv
  · have hrest : Inv { s with host := rest } := h.congr rfl h.mem
    cases a with
    | regWrite w addr v => exact inv_hostRegWrite hrest hstep
    | regRead w addr => exact inv_hostRegRead hrest hstep
    | memWrite addr v => exact inv_hostMemWrite hrest addr.isLt hstep
    | memRead addr => exact inv_hostMemRead hrest hstep
    | irqRead => cases hstep; exact hrest.congr rfl h.mem
    | hwReset => cases hstep; exact inv_resetTo hrest h.mem
    | engineTurn => cases hstep; exact hrest
    | wait => cases hstep; exact hrest.congr rfl h.mem

/-- With no host action pending, a step is the engine's turn. -/
theorem step_answers {s : State} (h : Inv s) (hhost : s.host = []) : ∃ t, step s = .next t ∧ TurnEnds s t := by
  have hafter : afterTurn s = s := by simp [afterTurn, hhost]
  rw [step_eq_outcome, nextTurn_engine (.inl hhost), hafter]
  exact engineTurn_answers h

/-- R115: each step of the selector loop writes at least one output, so the outputs left bound the steps to its end. -/
theorem completes_from_unpack {n : Nat} : ∀ {s : State}, Inv s → s.host = [] → s.phase = .unpack →
    s.dl.toNat - s.oc ≤ n →
    ∃ k t, k ≤ n ∧ Host.Core.run Sys2Proof.core k s = .next t ∧ State.busy t = false := by
  induction n with
  | zero =>
    intro s h _ hphase hle
    have := (h.decode hphase).oc_lt
    omega
  | succ n ih =>
    intro s h hhost hphase hle
    obtain ⟨t, hstep, hinv, hhost', hidle | ⟨hphase', hdl, hlt, hoc⟩⟩ := step_answers h hhost
    · exact ⟨1, t, by omega, core_run_succ 0 hstep, hidle⟩
    · have hoc := hoc hphase
      rw [hdl] at hlt
      obtain ⟨k, u, hk, hrun, hu⟩ := ih hinv (hhost'.trans hhost) hphase' (by rw [hdl]; omega)
      exact ⟨k + 1, u, by omega, (core_run_succ k hstep).trans hrun, hu⟩

/-- Settles O58: one step ends a command or brings DECODE to its selector loop, which ends within its output count. -/
theorem everyCommandCompletes : Obligations.EveryCommandCompletes := by
  intro s h hhost
  obtain ⟨t, hstep, hinv, hhost', hidle | ⟨hphase, hdl, -, -⟩⟩ := step_answers h hhost
  · exact ⟨1, t, by omega, core_run_succ 0 hstep, hidle⟩
  · obtain ⟨k, u, hk, hrun, hu⟩ := completes_from_unpack (n := s.dl.toNat) hinv (hhost'.trans hhost) hphase
      (by rw [hdl]; omega)
    exact ⟨k + 1, u, by omega, (core_run_succ k hstep).trans hrun, hu⟩

end Sys2Proof.Machine
end

section
/-! PROOFS. Two runs of the engine's work side by side: from states that agree on what the work reads, it ends alike. -/

namespace Sys2Proof.Machine

/-! ### Related outcomes -/

/-- Two runs of a stretch of work end alike: with related results, with one error at related states, or with one fault. -/
inductive ResRel {α : Type} (V : α → α → Prop) (R : State → State → Prop) : Res α → Res α → Prop where
  | ok {a b : α} : V a b → ResRel V R (.ok a) (.ok b)
  | raise {s t : State} (e : ErrCode) (info : Nat) : R s t →
      ResRel V R (.error (.raise s e info)) (.error (.raise t e info))
  | fault (f : Fault) : ResRel V R (.error (.fault f)) (.error (.fault f))

/-- Two steps have related next states, or one fault or refusal. -/
inductive OutcomeRel (R : State → State → Prop) :
    Host.Outcome State Fault Refusal → Host.Outcome State Fault Refusal → Prop where
  | next {s t : State} : R s t → OutcomeRel R (.next s) (.next t)
  | fault (f : Fault) : OutcomeRel R (.fault f) (.fault f)
  | refused (r : Refusal) : OutcomeRel R (.refused r) (.refused r)

/-- The next piece of a command's work, on the value the piece before it answered. -/
def Res.andThen {α β : Type} (x : Res α) (f : α → Res β) : Res β :=
  match x with
  | .error e => .error e
  | .ok a => f a

@[simp] theorem andThen_ok {α β : Type} (a : α) (f : α → Res β) : Res.andThen (.ok a) f = f a := rfl

@[simp] theorem andThen_error {α β : Type} (e : Stop) (f : α → Res β) : Res.andThen (.error e) f = .error e := rfl

theorem ResRel.andThen {α β : Type} {V : α → α → Prop} {V' : β → β → Prop} {R : State → State → Prop} {x y : Res α}
    {f g : α → Res β} (h : ResRel V R x y) (hfg : ∀ a b, V a b → ResRel V' R (f a) (g b)) :
    ResRel V' R (x.andThen f) (y.andThen g) := by
  cases h with
  | ok hab => exact hfg _ _ hab
  | raise e info hst => exact .raise e info hst
  | fault f => exact .fault f

/-- Two runs that answer with the same value go on with it. -/
theorem ResRel.andThen_eq {α β : Type} {V' : β → β → Prop} {R : State → State → Prop} {x y : Res α} {f g : α → Res β}
    (h : ResRel Eq R x y) (hfg : ∀ a, ResRel V' R (f a) (g a)) : ResRel V' R (x.andThen f) (y.andThen g) :=
  h.andThen fun a _ hab => hab ▸ hfg a

theorem OutcomeRel.mapNext_eq {f : State → State} {o o' : Host.Outcome State Fault Refusal}
    (h : OutcomeRel (fun s t => f s = f t) o o') : mapNext f o = mapNext f o' := by
  cases h with
  | next hst => exact congrArg Host.Outcome.next hst
  | fault | refused => rfl

theorem OutcomeRel.mono {R R' : State → State → Prop} {o o' : Host.Outcome State Fault Refusal} (h : OutcomeRel R o o')
    (hR : ∀ {s t}, R s t → R' s t) : OutcomeRel R' o o' := by
  cases h with
  | next hst => exact .next (hR hst)
  | fault f => exact .fault f
  | refused r => exact .refused r

theorem OutcomeRel.eq_mapNext {f : State → State} {o o' : Host.Outcome State Fault Refusal}
    (h : OutcomeRel (fun s t => t = f s) o o') : o' = mapNext f o := by
  cases h with
  | next hst => exact congrArg Host.Outcome.next hst
  | fault | refused => rfl

/-! ### What the engine's work reads -/

/-- The states agree on the parameters, memory and the latched context. -/
structure SameInputs (s t : State) : Prop where
  params : t.params = s.params
  mem : t.mem = s.mem
  sa : t.sa = s.sa
  sl : t.sl = s.sl
  da : t.da = s.da
  dl : t.dl = s.dl
  ar : t.ar = s.ar
  se : t.se = s.se

/-- A relation that the engine's accesses keep: related states have the same inputs and stay related after a MemWrite, and
their completions are related by `R'`. -/
structure WorkCongr (R R' : State → State → Prop) : Prop where
  inputs : ∀ {s t}, R s t → SameInputs s t
  written : ∀ {s t} m, R s t → R { s with mem := m, wrote := true } { t with mem := m, wrote := true }
  completes : ∀ {s t} r0 r1, R s t → R' (complete s r0 r1) (complete t r0 r1)
  raises : ∀ {s t} d e info, R s t → R' (raiseError s d e info) (raiseError t d e info)

/-- What the five commands need besides. -/
structure CommandCongr (R R' : State → State → Prop) : Prop extends WorkCongr R R' where
  scratch : ∀ {s t} r, R s t → R (withEncodeScratch s r) (withEncodeScratch t r)
  enters : ∀ {s t} v n, R s t → R' (endIfDone (enterUnpack s v n)) (endIfDone (enterUnpack t v n))

/-- The states agree on the cursors of the selector loop. -/
structure SameCursors (s t : State) : Prop where
  selStart : t.selStart = s.selStart
  sc : t.sc = s.sc
  pp : t.pp = s.pp
  oc : t.oc = s.oc

/-- What the selectors need besides. -/
structure SelectorCongr (R R' : State → State → Prop) : Prop extends WorkCongr R R' where
  cursors : ∀ {s t}, R s t → SameCursors s t
  paid : ∀ {s t} n, R s t → R { s with pp := n } { t with pp := n }
  counted : ∀ {s t} n, R s t → R { s with oc := n } { t with oc := n }
  fetched : ∀ {s t} n, R s t → R { s with sc := n } { t with sc := n }
  goesOn : ∀ {s t}, R s t → R' s t

theorem finish_related {R R' : State → State → Prop} {d : State → Range} {x y : Res State} (hR : WorkCongr R R')
    (hd : ∀ s t, SameInputs s t → d t = d s) (h : ResRel R' R x y) : OutcomeRel R' (finish d x) (finish d y) := by
  cases h with
  | ok hst => exact .next hst
  | @raise s t e info hst =>
    simp only [finish_raise, hd s t (hR.inputs hst)]
    exact .next (hR.raises _ e info hst)
  | fault f => exact .fault f

/-! ### Accesses -/

section Accesses
variable {R R' : State → State → Prop} {s t : State}

theorem access_related (hR : WorkCongr R R') (h : R s t) (a n : Nat) : ResRel Eq R (access s a n) (access t a n) := by
  unfold access
  rw [(hR.inputs h).params]
  split
  · exact .fault _
  · split
    · exact .raise _ _ h
    · exact .ok rfl

theorem memRead_eq_andThen (s : State) (a n : Nat) :
    memRead s a n = (access s a n).andThen fun _ => .ok (Memory.readLE s.mem a n) := by
  unfold memRead
  cases access s a n <;> rfl

theorem memRead_related (hR : WorkCongr R R') (h : R s t) (a n : Nat) : ResRel Eq R (memRead s a n) (memRead t a n) := by
  rw [memRead_eq_andThen, memRead_eq_andThen, (hR.inputs h).mem]
  exact (access_related hR h a n).andThen_eq fun _ => .ok rfl

theorem memWrite_eq_andThen (s : State) (a n v : Nat) :
    memWrite s a n v = (access s a n).andThen fun _ => .ok { s with mem := Memory.writeLE s.mem a n v, wrote := true } := by
  unfold memWrite
  cases access s a n <;> rfl

theorem memWrite_related (hR : WorkCongr R R') (h : R s t) (a n v : Nat) :
    ResRel R R (memWrite s a n v) (memWrite t a n v) := by
  rw [memWrite_eq_andThen, memWrite_eq_andThen, (hR.inputs h).mem]
  exact (access_related hR h a n).andThen_eq fun _ => .ok (hR.written _ h)

theorem readWords_succ (s : State) (a k : Nat) : readWords s a (k + 1) =
    (memRead s a 4).andThen fun v => (readWords s (a + 4) k).andThen fun vs => .ok (BitVec.ofNat 32 v :: vs) := by
  cases h : memRead s a 4 with
  | error e => simp [readWords, h]
  | ok v => cases h' : readWords s (a + 4) k <;> simp [readWords, h, h']

theorem readWords_related (hR : WorkCongr R R') (h : R s t) : ∀ k a : Nat,
    ResRel Eq R (readWords s a k) (readWords t a k)
  | 0, _ => .ok rfl
  | k + 1, a => by
    rw [readWords_succ, readWords_succ]
    exact (memRead_related hR h a 4).andThen_eq fun _ => (readWords_related hR h k (a + 4)).andThen_eq fun _ => .ok rfl

theorem writeAll_cons (n : Nat) (s : State) (a v : Nat) (vs : List Nat) :
    writeAll n s a (v :: vs) = (memWrite s a n v).andThen fun u => writeAll n u (a + n) vs := by
  cases h : memWrite s a n v <;> simp [writeAll, h]

theorem writeAll_related (hR : WorkCongr R R') (n : Nat) : ∀ (vs : List Nat) {s t : State} (a : Nat), R s t →
    ResRel R R (writeAll n s a vs) (writeAll n t a vs)
  | [], _, _, _, h => .ok h
  | v :: vs, s, t, a, h => by
    rw [writeAll_cons, writeAll_cons]
    exact (memWrite_related hR h a n v).andThen fun _ _ hu => writeAll_related hR n vs (a + n) hu

/-! ### The trailer -/

/-- R141: a round of the backward scan. -/
theorem vbyteScan_succ (s : State) (base left i acc n b : Nat) : vbyteScan s base (left + 1) i acc n b =
    if b &&& 0x80 ≠ 0 then .ok (acc, n)
    else if i = 0 then .error (.raise s .badTrailer 1)
    else (memRead s (base + (i - 1)) 1).andThen fun b' =>
      vbyteScan s base left (i - 1) ((acc <<< 7) ||| (b' &&& 0x7F)) (n + 1) b' := by
  cases h : memRead s (base + (i - 1)) 1 <;> simp [vbyteScan, h]

theorem vbyteScan_related (hR : WorkCongr R R') (h : R s t) (base : Nat) : ∀ left i acc n b : Nat,
    ResRel Eq R (vbyteScan s base left i acc n b) (vbyteScan t base left i acc n b)
  | 0, i, acc, n, b => by
    unfold vbyteScan
    split
    · exact .ok rfl
    · exact .raise _ _ h
  | left + 1, i, acc, n, b => by
    rw [vbyteScan_succ, vbyteScan_succ]
    split
    · exact .ok rfl
    · split
      · exact .raise _ _ h
      · exact (memRead_related hR h _ 1).andThen_eq fun b' => vbyteScan_related hR h base left (i - 1) _ (n + 1) b'

/-- R141: the backward decoder: the last byte, the scan before it, and the bound of the value. -/
theorem vbyteDec_eq_andThen (s : State) (base len : Nat) : vbyteDec s base len =
    if len = 0 then .error (.raise s .badTrailer 1)
    else (memRead s (base + (len - 1)) 1).andThen fun b =>
      (vbyteScan s base 4 (len - 1) (b &&& 0x7F) 1 b).andThen fun x =>
        if 2 ^ 32 ≤ x.1 then .error (.raise s .badTrailer 3) else .ok x := by
  cases h : memRead s (base + (len - 1)) 1 with
  | error e => simp [vbyteDec, h]
  | ok b => cases h' : vbyteScan s base 4 (len - 1) (b &&& 0x7F) 1 b <;> simp [vbyteDec, h, h']

theorem vbyteDec_related (hR : WorkCongr R R') (h : R s t) (base len : Nat) :
    ResRel Eq R (vbyteDec s base len) (vbyteDec t base len) := by
  rw [vbyteDec_eq_andThen, vbyteDec_eq_andThen]
  split
  · exact .raise _ _ h
  · refine (memRead_related hR h _ 1).andThen_eq fun b => (vbyteScan_related hR h base 4 _ _ 1 b).andThen_eq fun x => ?_
    split
    · exact .raise _ _ h
    · exact .ok rfl

/-! ### The commands -/

theorem SameInputs.wordSource_eq (h : SameInputs s t) : wordSource t = wordSource s := by
  simp only [wordSource, h.sa, h.sl]

theorem SameInputs.byteSource_eq (h : SameInputs s t) : byteSource t = byteSource s := by
  simp only [byteSource, h.sa, h.sl]

theorem SameInputs.encodeDest_eq (h : SameInputs s t) : encodeDest t = encodeDest s := by
  simp only [encodeDest, h.da, h.dl]

theorem SameInputs.decodeDest_eq (h : SameInputs s t) : decodeDest t = decodeDest s := by
  simp only [decodeDest, h.da, h.dl]

theorem SameInputs.encodeChecks_eq (h : SameInputs s t) : encodeChecks t = encodeChecks s := by
  unfold encodeChecks
  rw [h.wordSource_eq, h.encodeDest_eq, h.params, h.sa, h.sl, h.da]

theorem SameInputs.decodeChecks_eq (h : SameInputs s t) : decodeChecks t = decodeChecks s := by
  unfold decodeChecks
  rw [h.wordSource_eq, h.decodeDest_eq, h.sa, h.da]

theorem SameInputs.vbyteDecChecks_eq (h : SameInputs s t) : vbyteDecChecks t = vbyteDecChecks s := by
  rw [vbyteDecChecks, vbyteDecChecks, h.byteSource_eq]

theorem runVbyteDec_eq_andThen (s : State) (h : vbyteDecChecks s = none) : runVbyteDec s =
    (vbyteDec s s.sa.toNat s.sl.toNat).andThen fun x => .ok (complete s x.1 x.2) := by
  cases h' : vbyteDec s s.sa.toNat s.sl.toNat <;> simp [runVbyteDec, h, h']

theorem runVbyteDec_related (hR : WorkCongr R R') (h : R s t) : ResRel R' R (runVbyteDec s) (runVbyteDec t) := by
  have hin := hR.inputs h
  cases hc : vbyteDecChecks s with
  | some x =>
    simp only [runVbyteDec, hin.vbyteDecChecks_eq, hc]
    exact .raise _ _ h
  | none =>
    rw [runVbyteDec_eq_andThen s hc, runVbyteDec_eq_andThen t (hin.vbyteDecChecks_eq.trans hc), hin.sa, hin.sl]
    exact (vbyteDec_related hR h _ _).andThen_eq fun x => .ok (hR.completes x.1 x.2 h)

theorem planEncode_eq_andThen (s : State) (h : encodeChecks s = none) : planEncode s =
    (readWords s s.sa.toNat s.sl.toNat).andThen fun src =>
      match encodeBuffer s.params.promoteScope s.se src with
      | .error p => .error (.raise s .internal p)
      | .ok r =>
        if s.dl.toNat < r.bytes.length then .error (.raise (withEncodeScratch s r) .capacity r.bytes.length)
        else .ok r := by
  cases h' : readWords s s.sa.toNat s.sl.toNat with
  | error e => simp only [planEncode, h, h', andThen_error]
  | ok src =>
    cases hr : encodeBuffer s.params.promoteScope s.se src <;> simp only [planEncode, h, h', hr, andThen_ok]

theorem planEncode_related (hR : CommandCongr R R') (h : R s t) : ResRel Eq R (planEncode s) (planEncode t) := by
  have hin := hR.inputs h
  cases hc : encodeChecks s with
  | some x =>
    simp only [planEncode, hin.encodeChecks_eq, hc]
    exact .raise _ _ h
  | none =>
    rw [planEncode_eq_andThen s hc, planEncode_eq_andThen t (hin.encodeChecks_eq.trans hc), hin.params, hin.sa, hin.sl,
      hin.se, hin.dl]
    refine (readWords_related hR.toWorkCongr h _ _).andThen_eq fun src => ?_
    cases encodeBuffer s.params.promoteScope s.se src with
    | error p => exact .raise _ _ h
    | ok r =>
      dsimp only
      split
      · exact .raise _ _ (hR.scratch _ h)
      · exact .ok rfl

/-- R149: ENCODE's plan, its writes and its completion. -/
theorem runEncode_eq_andThen (s : State) : runEncode s = (planEncode s).andThen fun r =>
    (writeAll 1 (withEncodeScratch s r) s.da.toNat (r.bytes.map BitVec.toNat)).andThen fun u =>
      .ok (complete u (r.bytes.length / 4) r.payload.length) := by
  cases h : planEncode s with
  | error e => simp [runEncode, h]
  | ok r =>
    cases h' : writeAll 1 (withEncodeScratch s r) s.da.toNat (r.bytes.map BitVec.toNat) <;>
      simp only [runEncode, h, h', andThen_ok, andThen_error]

theorem runEncode_related (hR : CommandCongr R R') (h : R s t) : ResRel R' R (runEncode s) (runEncode t) := by
  rw [runEncode_eq_andThen, runEncode_eq_andThen, (hR.inputs h).da]
  exact (planEncode_related hR h).andThen_eq fun r =>
    (writeAll_related hR.toWorkCongr 1 _ _ (hR.scratch r h)).andThen fun _ _ hu => .ok (hR.completes _ _ hu)

/-- R150: DECODE's trailer and the bounds of its value. -/
theorem runDecode_eq_andThen (s : State) (h : decodeChecks s = none) : runDecode s =
    (vbyteDec s s.sa.toNat (4 * s.sl.toNat)).andThen fun x =>
      if x.1 < x.2 then .error (.raise s .badTrailer 4)
      else if 4 * s.sl.toNat < x.1 then .error (.raise s .badTrailer 5)
      else .ok (endIfDone (enterUnpack s x.1 x.2)) := by
  cases h' : vbyteDec s s.sa.toNat (4 * s.sl.toNat) <;> simp [runDecode, h, h']

theorem runDecode_related (hR : CommandCongr R R') (h : R s t) : ResRel R' R (runDecode s) (runDecode t) := by
  have hin := hR.inputs h
  cases hc : decodeChecks s with
  | some x =>
    simp only [runDecode, hin.decodeChecks_eq, hc]
    exact .raise _ _ h
  | none =>
    rw [runDecode_eq_andThen s hc, runDecode_eq_andThen t (hin.decodeChecks_eq.trans hc), hin.sa, hin.sl]
    refine (vbyteDec_related hR.toWorkCongr h _ _).andThen_eq fun x => ?_
    split
    · exact .raise _ _ h
    · split
      · exact .raise _ _ h
      · exact .ok (hR.enters _ _ h)

/-- A command runs alike from related states. -/
theorem exec_command_related (hR : CommandCongr R R') (h : R s t) {cw : Word} {i : Instr} (hi : decodeCommand cw = .ok i) :
    OutcomeRel R' (exec i s) (exec i t) := by
  have hin := hR.inputs h
  rcases decodeCommand_ok hi with ⟨-, rfl⟩ | ⟨-, rfl⟩ | ⟨-, rfl⟩ | ⟨-, rfl⟩ | ⟨-, rfl⟩
  · exact finish_related hR.toWorkCongr (fun _ _ hin => hin.encodeDest_eq) (runEncode_related hR h)
  · exact finish_related hR.toWorkCongr (fun _ _ hin => hin.decodeDest_eq) (runDecode_related hR h)
  · simp only [exec, execCmdClassify, hin.ar]
    exact .next (hR.completes _ _ h)
  · simp only [exec, execCmdVbyteEnc, hin.ar]
    exact .next (hR.completes _ _ h)
  · exact finish_related hR.toWorkCongr (fun _ _ _ => rfl) (runVbyteDec_related hR.toWorkCongr h)

/-! ### The selectors -/

theorem readColumn_eq_andThen (s : State) (base units l : Nat) : readColumn s base units l =
    (memRead s (base + 4 * l) 4).andThen fun lo =>
      if units = 2 then (memRead s (base + 16 + 4 * l) 4).andThen fun hi => .ok (lo ||| (hi <<< 32)) else .ok lo := by
  cases h : memRead s (base + 4 * l) 4 with
  | error e => simp [readColumn, h]
  | ok lo => cases h' : memRead s (base + 16 + 4 * l) 4 <;> simp [readColumn, h, h']

theorem readColumn_related (hR : WorkCongr R R') (h : R s t) (base units l : Nat) :
    ResRel Eq R (readColumn s base units l) (readColumn t base units l) := by
  rw [readColumn_eq_andThen, readColumn_eq_andThen]
  refine (memRead_related hR h _ 4).andThen_eq fun lo => ?_
  split
  · exact (memRead_related hR h _ 4).andThen_eq fun _ => .ok rfl
  · exact .ok rfl

theorem readColumns_succ (s : State) (base units l k : Nat) : readColumns s base units l (k + 1) =
    (readColumn s base units l).andThen fun x => (readColumns s base units (l + 1) k).andThen fun xs => .ok (x :: xs) := by
  cases h : readColumn s base units l with
  | error e => simp [readColumns, h]
  | ok x => cases h' : readColumns s base units (l + 1) k <;> simp [readColumns, h, h']

theorem readColumns_related (hR : WorkCongr R R') (h : R s t) (base units : Nat) : ∀ k l : Nat,
    ResRel Eq R (readColumns s base units l k) (readColumns t base units l k)
  | 0, _ => .ok rfl
  | k + 1, l => by
    rw [readColumns_succ, readColumns_succ]
    exact (readColumn_related hR h base units l).andThen_eq fun _ =>
      (readColumns_related hR h base units k (l + 1)).andThen_eq fun _ => .ok rfl

theorem copyDirect_succ (bytes j k : Nat) (s : State) : copyDirect bytes j (k + 1) s =
    (memRead s (s.sa.toNat + s.pp + bytes * j) bytes).andThen fun x =>
      (memWrite s (s.da.toNat + 4 * (s.oc + j)) 4 x).andThen fun u => copyDirect bytes (j + 1) k u := by
  cases h : memRead s (s.sa.toNat + s.pp + bytes * j) bytes with
  | error e => simp [copyDirect, h]
  | ok x => cases h' : memWrite s (s.da.toNat + 4 * (s.oc + j)) 4 x <;> simp [copyDirect, h, h']

theorem copyDirect_related (hR : SelectorCongr R R') (bytes : Nat) : ∀ (k j : Nat) {s t : State}, R s t →
    ResRel R R (copyDirect bytes j k s) (copyDirect bytes j k t)
  | 0, _, _, _, h => .ok h
  | k + 1, j, s, t, h => by
    have hin := hR.inputs h
    have hcur := hR.cursors h
    rw [copyDirect_succ, copyDirect_succ, hin.sa, hin.da, hcur.pp, hcur.oc]
    exact (memRead_related hR.toWorkCongr h _ _).andThen_eq fun _ =>
      (memWrite_related hR.toWorkCongr h _ _ _).andThen fun _ _ hu => copyDirect_related hR bytes k (j + 1) hu

/-- R70: a packed block: its bound, its columns and its outputs. -/
theorem unpackBlock_packed_eq {w : Width} {units : Nat} (hk : w.kind = .packed units) (r : Nat) (s : State) :
    unpackBlock w r s =
      if s.selStart < s.pp + w.blockBytes then .error (.raise s .payloadOverrun s.pp)
      else (readColumns s (s.sa.toNat + s.pp) units 0 4).andThen fun cols =>
        (writeAll 4 s (s.da.toNat + 4 * s.oc) ((List.range r).map (packedField w cols))).andThen fun u =>
          .ok { u with pp := s.pp + w.blockBytes } := by
  cases h : readColumns s (s.sa.toNat + s.pp) units 0 4 with
  | error e => simp [unpackBlock, hk, h]
  | ok cols =>
    cases h' : writeAll 4 s (s.da.toNat + 4 * s.oc) ((List.range r).map (packedField w cols)) <;>
      simp [unpackBlock, hk, h, h']

/-- R71: a direct block: its bound and its copy. -/
theorem unpackBlock_direct_eq {w : Width} {bytes : Nat} (hk : w.kind = .direct bytes) (r : Nat) (s : State) :
    unpackBlock w r s =
      if s.selStart < s.pp + bytes * r then .error (.raise s .payloadOverrun s.pp)
      else (copyDirect bytes 0 r s).andThen fun u => .ok { u with pp := s.pp + bytes * r } := by
  cases h : copyDirect bytes 0 r s <;> simp [unpackBlock, hk, h]

theorem unpackBlock_related (hR : SelectorCongr R R') (h : R s t) (w : Width) (r : Nat) :
    ResRel R R (unpackBlock w r s) (unpackBlock w r t) := by
  have hin := hR.inputs h
  have hcur := hR.cursors h
  cases hk : w.kind with
  | zero =>
    simp only [unpackBlock, hk, hin.da, hcur.oc]
    exact writeAll_related hR.toWorkCongr 4 _ _ h
  | packed units =>
    rw [unpackBlock_packed_eq hk, unpackBlock_packed_eq hk, hin.sa, hin.da, hcur.selStart, hcur.pp, hcur.oc]
    split
    · exact .raise _ _ h
    · exact (readColumns_related hR.toWorkCongr h _ _ 4 0).andThen_eq fun cols =>
        (writeAll_related hR.toWorkCongr 4 _ _ h).andThen fun _ _ hu => .ok (hR.paid _ hu)
  | direct bytes =>
    rw [unpackBlock_direct_eq hk, unpackBlock_direct_eq hk, hcur.selStart, hcur.pp]
    split
    · exact .raise _ _ h
    · exact (copyDirect_related hR _ _ 0 h).andThen fun _ _ hu => .ok (hR.paid _ hu)

theorem unpackBlocks_succ (w : Width) (c : Nat) (s : State) : unpackBlocks w (c + 1) s =
    if s.dl.toNat ≤ s.oc then .ok s
    else (unpackBlock w (min w.blockInts (s.dl.toNat - s.oc)) s).andThen fun u =>
      unpackBlocks w c { u with oc := s.oc + min w.blockInts (s.dl.toNat - s.oc) } := by
  cases h : unpackBlock w (min w.blockInts (s.dl.toNat - s.oc)) s <;> simp [unpackBlocks, h]

theorem unpackBlocks_related (hR : SelectorCongr R R') (w : Width) : ∀ (c : Nat) {s t : State}, R s t →
    ResRel R R (unpackBlocks w c s) (unpackBlocks w c t)
  | 0, _, _, h => .ok h
  | c + 1, s, t, h => by
    rw [unpackBlocks_succ, unpackBlocks_succ, (hR.inputs h).dl, (hR.cursors h).oc]
    split
    · exact .ok h
    · exact (unpackBlock_related hR h w _).andThen fun _ _ hu => unpackBlocks_related hR w c (hR.counted _ hu)

theorem endIfDone_related (hR : SelectorCongr R R') (h : R s t) : R' (endIfDone s) (endIfDone t) := by
  have hcur := hR.cursors h
  unfold endIfDone
  rw [(hR.inputs h).dl, hcur.oc, hcur.pp, hcur.selStart]
  split
  · exact hR.completes _ _ h
  · exact hR.goesOn h

theorem runSelector_eq_andThen (w : Width) (count : Nat) (s : State) : runSelector w count s =
    (unpackBlocks w count s).andThen fun u => .ok (endIfDone { u with sc := u.sc + 1 }) := by
  cases h : unpackBlocks w count s <;> simp [runSelector, h]

/-- A selector runs alike from related states. -/
theorem execSelector_related (hR : SelectorCongr R R') (h : R s t) (w : Width) (count : Nat) :
    OutcomeRel R' (execSelector w count s) (execSelector w count t) := by
  refine finish_related hR.toWorkCongr (fun _ _ hin => hin.decodeDest_eq) ?_
  rw [runSelector_eq_andThen, runSelector_eq_andThen]
  refine (unpackBlocks_related hR w count h).andThen fun u v hu => ?_
  rw [(hR.cursors hu).sc]
  exact .ok (endIfDone_related hR (hR.fetched _ hu))

end Accesses

end Sys2Proof.Machine
end

section
/-! PROOFS. Host writes to the operand registers and ordinary ones to CTRL commute with every instruction (R33, R174). -/

namespace Sys2Proof.Machine

/-- The registers a host write can change while a command runs, without an effect on it. -/
structure HostRegs where
  ie : Bool
  shortEnd : Bool
  srcAddr : Word
  srcLen : Word
  dstAddr : Word
  dstLen : Word
  arg : Word

def hostRegs (s : State) : HostRegs := ⟨s.ie, s.shortEnd, s.srcAddr, s.srcLen, s.dstAddr, s.dstLen, s.arg⟩

/-- A change of those registers and of nothing else. -/
def changeHostRegs (g : HostRegs → HostRegs) (s : State) : State :=
  let x := g (hostRegs s)
  { s with
    ie := x.ie, shortEnd := x.shortEnd, srcAddr := x.srcAddr, srcLen := x.srcLen, dstAddr := x.dstAddr,
    dstLen := x.dstLen, arg := x.arg }

/-- R26, R23: a write to an operand register, or an ordinary one to CTRL, is such a change. -/
theorem writeReg_eq_changeHostRegs {r : Reg} {v : Word} (h : r ∈ operandRegs ∨ (r = .ctrl ∧ v.getLsbD 31 = false)) :
    ∃ g, ∀ s, writeReg s r v = changeHostRegs g s := by
  rcases h with hr | ⟨rfl, hv⟩
  · simp only [operandRegs, List.mem_cons, List.not_mem_nil, or_false] at hr
    rcases hr with rfl | rfl | rfl | rfl | rfl
    · exact ⟨fun x => { x with srcAddr := v }, fun _ => rfl⟩
    · exact ⟨fun x => { x with srcLen := v }, fun _ => rfl⟩
    · exact ⟨fun x => { x with dstAddr := v }, fun _ => rfl⟩
    · exact ⟨fun x => { x with dstLen := v }, fun _ => rfl⟩
    · exact ⟨fun x => { x with arg := v }, fun _ => rfl⟩
  · refine ⟨fun x => { x with ie := v.getLsbD 0, shortEnd := v.getLsbD 1 }, fun s => ?_⟩
    simp only [writeReg, writeCtrl, hv]
    rfl

theorem endIfDone_changeHostRegs (g : HostRegs → HostRegs) (s : State) :
    endIfDone (changeHostRegs g s) = changeHostRegs g (endIfDone s) :=
  (apply_ite (changeHostRegs g) (s.dl.toNat ≤ s.oc) (complete s s.pp s.selStart) s).symm

theorem workCongr_changeHostRegs (g : HostRegs → HostRegs) :
    WorkCongr (fun s t => t = changeHostRegs g s) (fun s t => t = changeHostRegs g s) where
  inputs := fun h => h ▸ ⟨rfl, rfl, rfl, rfl, rfl, rfl, rfl, rfl⟩
  written := fun _ h => h ▸ rfl
  completes := fun _ _ h => h ▸ rfl
  raises := fun _ _ _ h => h ▸ rfl

theorem commandCongr_changeHostRegs (g : HostRegs → HostRegs) :
    CommandCongr (fun s t => t = changeHostRegs g s) (fun s t => t = changeHostRegs g s) where
  toWorkCongr := workCongr_changeHostRegs g
  scratch := fun _ h => h ▸ rfl
  enters := fun _ _ h => h ▸ endIfDone_changeHostRegs g (enterUnpack _ _ _)

theorem selectorCongr_changeHostRegs (g : HostRegs → HostRegs) :
    SelectorCongr (fun s t => t = changeHostRegs g s) (fun s t => t = changeHostRegs g s) where
  toWorkCongr := workCongr_changeHostRegs g
  cursors := fun h => h ▸ ⟨rfl, rfl, rfl, rfl⟩
  paid := fun _ h => h ▸ rfl
  counted := fun _ h => h ▸ rfl
  fetched := fun _ h => h ▸ rfl
  goesOn := id

/-- Settles O56: the engine reads none of the registers such a write changes, and changes none of them. -/
theorem hostWritesDoNotAffectTheRunningCommand : Obligations.HostWritesDoNotAffectTheRunningCommand := by
  intro i s r v h
  obtain ⟨g, hg⟩ := writeReg_eq_changeHostRegs h
  simp only [hg]
  have hcommand : ∀ {cw}, decodeCommand cw = .ok i → OutcomeRel _ (exec i s) (exec i (changeHostRegs g s)) :=
    exec_command_related (commandCongr_changeHostRegs g) rfl
  have hselector : ∀ w count, OutcomeRel _ (execSelector w count s) (execSelector w count (changeHostRegs g s)) :=
    execSelector_related (selectorCongr_changeHostRegs g) rfl
  refine OutcomeRel.eq_mapNext ?_
  cases i with
  | cmdEncode => exact hcommand (cw := 1) rfl
  | cmdDecode => exact hcommand (cw := 2) rfl
  | cmdClassify => exact hcommand (cw := 3) rfl
  | cmdVbyteEnc => exact hcommand (cw := 4) rfl
  | cmdVbyteDec => exact hcommand (cw := 5) rfl
  | selW0 c | selW1 c | selW2 c | selW3 c | selW4 c | selW5 c | selW6 c | selW7 c | selW8 c | selW9 c | selW10 c
  | selW12 c | selW16 c | selW21 c | selW32 c => exact hselector _ c

end Sys2Proof.Machine
end

section
/-! PROOFS. No step observes the scratch an earlier command left (R42, R177). -/

namespace Sys2Proof.Machine

/-- The state with the encoder's scratch forgotten (R35 to R37). -/
def forgetEncoder (s : State) : State :=
  { s with widths := [], selbuf := [], p := 0, rs := 0, rl := 0, b := 0, ob := 0 }

/-- The state with the encoder's scratch and the decoder's context and cursors forgotten (R35 to R40). -/
def forgetAll (s : State) : State :=
  { forgetEncoder s with bufLen := 0, trlLen := 0, trlVal := 0, selStart := 0, sc := 0, pp := 0, oc := 0 }

/-- What an operation that sees no forgotten field answers is the same at states that agree on the others. -/
theorem eq_of_forget {α : Type} {F : State → State} {s t : State} (h : F s = F t) (f : State → α)
    (hf : ∀ u, f (F u) = f u) : f s = f t := by
  rw [← hf s, h, hf]

/-- The states agree on everything but the scratch: on the decoder's context too while DECODE is in its loop. -/
structure Alike (s t : State) : Prop where
  all : forgetAll s = forgetAll t
  unpacking : s.phase = .unpack → forgetEncoder s = forgetEncoder t

theorem forgetScratch_eq (s : State) : forgetScratch s = if s.phase = .unpack then forgetEncoder s else forgetAll s := rfl

theorem forgetAll_forgetScratch (s : State) : forgetAll (forgetScratch s) = forgetAll s := by
  rw [forgetScratch_eq]
  split <;> rfl

theorem Alike.phase {s t : State} (h : Alike s t) : t.phase = s.phase := (eq_of_forget h.all State.phase fun _ => rfl).symm

theorem alike_iff {s t : State} : Alike s t ↔ forgetScratch s = forgetScratch t := by
  constructor
  · intro h
    rw [forgetScratch_eq, forgetScratch_eq, h.phase]
    split
    case isTrue hp => exact h.unpacking hp
    case isFalse => exact h.all
  · intro h
    have hall : forgetAll s = forgetAll t := by rw [← forgetAll_forgetScratch s, h, forgetAll_forgetScratch]
    have hphase : s.phase = t.phase := eq_of_forget hall State.phase fun _ => rfl
    refine ⟨hall, fun hp => ?_⟩
    rwa [forgetScratch_eq, forgetScratch_eq, if_pos hp, if_pos (hphase ▸ hp)] at h

/-- An operation that commutes with forgetting, and does not bring DECODE to its loop, keeps states alike. -/
theorem Alike.map {s t : State} (h : Alike s t) {f : State → State} (hall : ∀ u, forgetAll (f u) = f (forgetAll u))
    (henc : ∀ u, forgetEncoder (f u) = f (forgetEncoder u)) (hphase : (f s).phase = .unpack → s.phase = .unpack) :
    Alike (f s) (f t) :=
  ⟨by rw [hall, hall, h.all], fun hp => by rw [henc, henc, h.unpacking (hphase hp)]⟩

/-- An operation that leaves the engine out of DECODE's loop keeps states alike where it depends on no scratch. -/
theorem Alike.of_all {s t : State} (h : forgetAll s = forgetAll t) (hs : s.phase ≠ .unpack) : Alike s t :=
  ⟨h, fun hp => absurd hp hs⟩

/-! ### The host's actions -/

theorem workCongr_forgetAll : WorkCongr (fun s t => forgetAll s = forgetAll t) Alike where
  inputs := fun {s t} h => by
    have hin : SameInputs (forgetAll s) (forgetAll t) := h ▸ ⟨rfl, rfl, rfl, rfl, rfl, rfl, rfl, rfl⟩
    exact ⟨hin.params, hin.mem, hin.sa, hin.sl, hin.da, hin.dl, hin.ar, hin.se⟩
  written := fun m h => eq_of_forget h (fun u => forgetAll { u with mem := m, wrote := true }) fun _ => rfl
  completes := fun r0 r1 h => .of_all (eq_of_forget h (fun u => forgetAll (complete u r0 r1)) fun _ => rfl) (by simp)
  raises := fun d e info h =>
    .of_all (eq_of_forget h (fun u => forgetAll (raiseError u d e info)) fun _ => rfl) (by simp)

/-- R150, R115: DECODE ends as it enters its loop exactly when no output is asked for. -/
theorem endIfDone_enterUnpack (s : State) (v n : Nat) : endIfDone (enterUnpack s v n) =
    if s.dl.toNat = 0 then complete (enterUnpack s v n) 0 (4 * s.sl.toNat - v) else enterUnpack s v n := by
  simp [endIfDone]

theorem commandCongr_forgetAll : CommandCongr (fun s t => forgetAll s = forgetAll t) Alike where
  toWorkCongr := workCongr_forgetAll
  scratch := fun r h => eq_of_forget h (fun u => forgetAll (withEncodeScratch u r)) fun _ => rfl
  enters := fun {s t} v n h => by
    have henter : forgetEncoder (enterUnpack s v n) = forgetEncoder (enterUnpack t v n) :=
      eq_of_forget h (fun u => forgetEncoder (enterUnpack u v n)) fun _ => rfl
    have hin := workCongr_forgetAll.inputs h
    rw [endIfDone_enterUnpack, endIfDone_enterUnpack, hin.dl, hin.sl]
    split
    · exact workCongr_forgetAll.completes _ _ (eq_of_forget henter forgetAll fun _ => rfl)
    · exact ⟨eq_of_forget henter forgetAll fun _ => rfl, fun _ => henter⟩

theorem encodeCouldWrite_eq {s t : State} (h : forgetAll s = forgetAll t) : encodeCouldWrite t = encodeCouldWrite s := by
  have hin := workCongr_forgetAll.inputs h
  have hplan := planEncode_related commandCongr_forgetAll h
  unfold encodeCouldWrite
  rw [hin.params, hin.da]
  generalize planEncode s = x, planEncode t = y at hplan
  cases hplan <;> rfl

theorem abortedMemory_eq {s t : State} (h : forgetAll s = forgetAll t) : abortedMemory s = abortedMemory t := by
  unfold abortedMemory abortedAfterWrite
  rw [encodeCouldWrite_eq h]
  exact eq_of_forget h (fun u : State =>
    if u.busy && (u.wrote || (decide (u.phase = .started) && decide (u.op = 1) && encodeCouldWrite s &&
        Config.freeBit u.freeCtr)) then
      Memory.scrambleRange u.mem u.freeCtr (runningDest u)
    else u.mem) fun _ => rfl

theorem Alike.writeReg {s t : State} (h : Alike s t) (r : Reg) (v : Word) : Alike (writeReg s r v) (writeReg t r v) := by
  cases r with
  | id | result0 | result1 | errinfo => exact h
  | srcAddr => exact h.map (f := fun u => { u with srcAddr := v }) (fun _ => rfl) (fun _ => rfl) id
  | srcLen => exact h.map (f := fun u => { u with srcLen := v }) (fun _ => rfl) (fun _ => rfl) id
  | dstAddr => exact h.map (f := fun u => { u with dstAddr := v }) (fun _ => rfl) (fun _ => rfl) id
  | dstLen => exact h.map (f := fun u => { u with dstLen := v }) (fun _ => rfl) (fun _ => rfl) id
  | arg => exact h.map (f := fun u => { u with arg := v }) (fun _ => rfl) (fun _ => rfl) id
  | status => exact h.map (f := fun u => acknowledge u v) (fun _ => rfl) (fun _ => rfl) id
  | ctrl =>
    simp only [Machine.writeReg, writeCtrl]
    split
    · simp only [softReset, abortedMemory_eq h.all]
      exact .of_all (eq_of_forget h.all (fun u => forgetAll (resetTo u (abortedMemory t))) fun _ => rfl)
        (by simp [resetTo, State.reset])
    · exact h.map (f := fun u => setCtrl u v) (fun _ => rfl) (fun _ => rfl) id
  | cmd =>
    have hbusy : t.busy = s.busy := by simp only [State.busy, h.phase]
    simp only [Machine.writeReg, writeCmd, hbusy]
    split
    · exact h.map (f := fun u => { u with cmdLost := true }) (fun _ => rfl) (fun _ => rfl) id
    · exact .of_all (eq_of_forget h.all (fun u => forgetAll (startCommand u v)) fun _ => rfl) (by simp)

theorem readOffset_congr {s t : State} (h : forgetAll s = forgetAll t) (off : Nat) :
    readOffset s off = readOffset t off := by
  unfold readOffset
  split
  · rename_i r _
    exact eq_of_forget h (fun u => readReg u r) fun _ => by cases r <;> rfl
  · rfl

theorem Alike.hostRegWrite {s t : State} (h : Alike s t) (w : AccessWidth) (addr v : Word) :
    OutcomeRel Alike (hostRegWrite s w addr v) (hostRegWrite t w addr v) := by
  unfold Machine.hostRegWrite
  rw [(workCongr_forgetAll.inputs h.all).params]
  split
  · exact .refused _
  · refine .next ?_
    unfold writeOffset
    split
    · exact h.writeReg _ v
    · exact h

theorem Alike.hostRegRead {s t : State} (h : Alike s t) (w : AccessWidth) (addr : Word) :
    OutcomeRel Alike (hostRegRead s w addr) (hostRegRead t w addr) := by
  unfold Machine.hostRegRead
  rw [(workCongr_forgetAll.inputs h.all).params]
  split
  · exact .refused _
  · rename_i off _
    rw [readOffset_congr h.all]
    exact .next (h.map (f := fun u => { observe u (decide (off = Reg.offset .status) && !u.busy) with
      rdata := readOffset t off }) (fun _ => rfl) (fun _ => rfl) id)

theorem Alike.hostIrqRead {s t : State} (h : Alike s t) : OutcomeRel Alike (hostIrqRead s) (hostIrqRead t) :=
  .next (h.map (f := fun u => { observe u (u.irq && !u.busy) with rdata := if u.irq then 1 else 0 }) (fun _ => rfl)
    (fun _ => rfl) id)

theorem hostBreach_phase (s : State) : (hostBreach s).phase = .unpack → s.phase = .unpack := by
  unfold hostBreach
  split
  · exact fun h => by cases h
  · exact id

theorem Alike.hostBreach {s t : State} (h : Alike s t) : Alike (hostBreach s) (hostBreach t) :=
  h.map (fun _ => apply_ite forgetAll _ _ _) (fun _ => apply_ite forgetEncoder _ _ _) (hostBreach_phase s)

/-- The duties and the ranges of R173 are no scratch. -/
theorem Alike.guarded {s t : State} (h : Alike s t) :
    t.guarded = s.guarded ∧ runningSource t = runningSource s ∧ runningDest t = runningDest s :=
  ⟨(eq_of_forget h.all State.guarded fun _ => rfl).symm, (eq_of_forget h.all runningSource fun _ => rfl).symm,
    (eq_of_forget h.all runningDest fun _ => rfl).symm⟩

theorem Alike.busErrAt {s t : State} (h : Alike s t) (a : Nat) : busErrAt t.params a = busErrAt s.params a := by
  rw [(workCongr_forgetAll.inputs h.all).params]

theorem Alike.hostMemWrite {s t : State} (h : Alike s t) (a : Nat) (v : Byte) :
    OutcomeRel Alike (hostMemWrite s a v) (hostMemWrite t a v) := by
  obtain ⟨hguard, hsrc, hdst⟩ := h.guarded
  have hwrite : Alike { s with mem := Memory.write s.mem a v } { t with mem := Memory.write t.mem a v } :=
    h.map (f := fun u => { u with mem := Memory.write u.mem a v }) (fun _ => rfl) (fun _ => rfl) id
  unfold Machine.hostMemWrite
  rw [h.busErrAt, hguard, hsrc, hdst]
  split
  · exact .refused _
  · split
    · exact .next hwrite.hostBreach
    · exact .next hwrite

theorem Alike.hostMemRead {s t : State} (h : Alike s t) (a : Nat) :
    OutcomeRel Alike (hostMemRead s a) (hostMemRead t a) := by
  obtain ⟨hguard, -, hdst⟩ := h.guarded
  have hread : ∀ {u v : State}, Alike u v → Alike { u with rdata := (Memory.read u.mem a).setWidth 32 }
      { v with rdata := (Memory.read v.mem a).setWidth 32 } := fun h =>
    h.map (f := fun u => { u with rdata := (Memory.read u.mem a).setWidth 32 }) (fun _ => rfl) (fun _ => rfl) id
  unfold Machine.hostMemRead
  rw [h.busErrAt, hguard, hdst]
  split
  · exact .refused _
  · split
    · exact .next (hread h.hostBreach)
    · exact .next (hread h)

/-! ### The engine's turn -/

theorem selectorCongr_forgetEncoder :
    SelectorCongr (fun s t => forgetEncoder s = forgetEncoder t ∧ s.phase = .unpack) Alike where
  inputs := fun h => workCongr_forgetAll.inputs (eq_of_forget h.1 forgetAll fun _ => rfl)
  written := fun m h =>
    ⟨eq_of_forget h.1 (fun u => forgetEncoder { u with mem := m, wrote := true }) fun _ => rfl, h.2⟩
  completes := fun r0 r1 h => workCongr_forgetAll.completes r0 r1 (eq_of_forget h.1 forgetAll fun _ => rfl)
  raises := fun d e info h => workCongr_forgetAll.raises d e info (eq_of_forget h.1 forgetAll fun _ => rfl)
  cursors := fun {s t} h => by
    have hcur : SameCursors (forgetEncoder s) (forgetEncoder t) := h.1 ▸ ⟨rfl, rfl, rfl, rfl⟩
    exact ⟨hcur.selStart, hcur.sc, hcur.pp, hcur.oc⟩
  paid := fun n h => ⟨eq_of_forget h.1 (fun u => forgetEncoder { u with pp := n }) fun _ => rfl, h.2⟩
  counted := fun n h => ⟨eq_of_forget h.1 (fun u => forgetEncoder { u with oc := n }) fun _ => rfl, h.2⟩
  fetched := fun n h => ⟨eq_of_forget h.1 (fun u => forgetEncoder { u with sc := n }) fun _ => rfl, h.2⟩
  goesOn := fun h => ⟨eq_of_forget h.1 forgetAll fun _ => rfl, fun _ => h.1⟩

theorem Alike.fetchCommand {s t : State} (h : Alike s t) :
    OutcomeRel Alike (fetchCommand s).outcome (fetchCommand t).outcome := by
  have hop : t.op = s.op := (eq_of_forget h.all State.op fun _ => rfl).symm
  unfold Machine.fetchCommand
  rw [hop]
  split
  case h_1 i hi => exact exec_command_related commandCongr_forgetAll h.all hi
  case h_2 => exact .next (workCongr_forgetAll.raises _ _ _ h.all)

theorem Alike.fetchSelector {s t : State} (h : Alike s t) (hphase : s.phase = .unpack) :
    OutcomeRel Alike (fetchSelector s).outcome (fetchSelector t).outcome := by
  have hR := selectorCongr_forgetEncoder
  have hst := And.intro (h.unpacking hphase) hphase
  have hin := hR.inputs hst
  have hcur := hR.cursors hst
  have hbuf : t.bufLen - t.trlLen = s.bufLen - s.trlLen := (eq_of_forget hst.1 (fun u => u.bufLen - u.trlLen) fun _ => rfl).symm
  have hread := memRead_related hR.toWorkCongr hst (s.sa.toNat + s.sc) 1
  unfold Machine.fetchSelector
  rw [hin.decodeDest_eq, hin.dl, hin.sa, hbuf, hcur.oc, hcur.pp, hcur.selStart, hcur.sc]
  split
  · exact .next (hR.completes _ _ hst)
  · split
    · exact .next (hR.raises _ _ _ hst)
    · generalize memRead s (s.sa.toNat + s.sc) 1 = x, memRead t (s.sa.toNat + s.sc) 1 = y at hread
      cases hread with
      | raise e info huv => exact finish_related hR.toWorkCongr (fun _ _ hin => hin.decodeDest_eq) (.raise e info huv)
      | fault f => exact .fault f
      | @ok sel _ heq =>
        subst heq
        dsimp only
        split
        case h_1 i hi =>
          obtain ⟨w, c, rfl, -⟩ := decodeSelector_ok hi
          simp only [Turn.outcome, exec_sel]
          exact execSelector_related hR hst w c
        case h_2 => exact .next (hR.raises _ _ _ hst)

theorem Alike.engineTurn {s t : State} (h : Alike s t) :
    OutcomeRel Alike (engineTurn s).outcome (engineTurn t).outcome := by
  unfold Machine.engineTurn
  rw [h.phase]
  cases hphase : s.phase with
  | idle => exact .next h
  | started => exact h.fetchCommand
  | unpack => exact h.fetchSelector hphase
  | breached =>
    refine .next (h.map (fun _ => apply_ite forgetAll _ _ _) (fun _ => apply_ite forgetEncoder _ _ _) ?_)
    unfold finishBreached
    split <;> exact fun hp => by cases hp

/-- States that agree on everything but the scratch step to states that do. -/
theorem Alike.step {s t : State} (h : Alike s t) : OutcomeRel Alike (step s) (step t) := by
  have hhost : t.host = s.host := (eq_of_forget h.all State.host fun _ => rfl).symm
  have hbusy : t.busy = s.busy := by simp only [State.busy, h.phase]
  rw [step_eq_outcome, step_eq_outcome]
  unfold nextTurn
  rw [hhost]
  cases s.host with
  | nil => exact h.engineTurn
  | cons a rest =>
    have hrest : Alike { s with host := rest } { t with host := rest } :=
      h.map (f := fun u => { u with host := rest }) (fun _ => rfl) (fun _ => rfl) id
    cases a with
    | engineTurn => exact hrest.engineTurn
    | wait =>
      simp only [hbusy]
      split
      · exact h.engineTurn
      · exact .next (hrest.map (f := fun u => observe u true) (fun _ => rfl) (fun _ => rfl) id)
    | hwReset =>
      exact .next (.of_all (eq_of_forget hrest.all (fun u => forgetAll (hardwareReset u)) fun _ => rfl) (by simp))
    | regWrite w addr v => exact hrest.hostRegWrite w addr v
    | regRead w addr => exact hrest.hostRegRead w addr
    | memWrite addr v => exact hrest.hostMemWrite addr.toNat v
    | memRead addr => exact hrest.hostMemRead addr.toNat
    | irqRead => exact hrest.hostIrqRead

/-- Settles O57: states that agree on everything but the scratch step to states that do. -/
theorem scratchIsNeverObserved : Obligations.ScratchIsNeverObserved := by
  intro s t h
  exact ((alike_iff.mpr h).step.mono alike_iff.mp).mapNext_eq

end Sys2Proof.Machine
end

section
/-! PROOFS. The register block as the host reads and writes it (R20 to R30, R45, R145, R161, R169, R171). -/

namespace Sys2Proof.Machine

/-! ### Accesses to the block -/

theorem writeOffset_offset (s : State) (r : Reg) (v : Word) : writeOffset s r.offset v = writeReg s r v := by
  rw [writeOffset, ofOffset?_offset]

theorem writeOffset_reserved {s : State} {off : Nat} {v : Word} (h : 0x30 ≤ off) : writeOffset s off v = s := by
  rw [writeOffset, ofOffset?_reserved h]

theorem readOffset_reserved {s : State} {off : Nat} (h : 0x30 ≤ off) : readOffset s off = 0 := by
  rw [readOffset, ofOffset?_reserved h]

/-- R45: an aligned 32-bit write inside the block. -/
theorem step_regWrite {s : State} {off : Nat} {v : Word} {rest : List HostAction} (hoff : off < 256) (h4 : off % 4 = 0)
    (hb : s.params.regBase.toNat + off < 2 ^ 32)
    (h : s.host = .regWrite .bits32 (s.params.regBase + BitVec.ofNat 32 off) v :: rest) :
    step s = .next (writeOffset { s with host := rest } off v) := by
  rw [step_eq_outcome]
  simp only [nextTurn, h, Turn.outcome, hostRegWrite, registerOffset?_of_base hoff h4 hb]

/-- R45: a write to a register at its offset. -/
theorem step_writeReg {s : State} {v : Word} {rest : List HostAction} (r : Reg)
    (hb : s.params.regBase.toNat + 256 ≤ 2 ^ 32)
    (h : s.host = .regWrite .bits32 (s.params.regBase + BitVec.ofNat 32 r.offset) v :: rest) :
    step s = .next (writeReg { s with host := rest } r v) := by
  have hlt := offset_lt r
  rw [step_regWrite (by omega) (offset_mod_four r) (by omega) h, writeOffset_offset]

/-- R45: an aligned 32-bit read inside the block. -/
theorem step_regRead {s : State} {off : Nat} {rest : List HostAction} (hoff : off < 256) (h4 : off % 4 = 0)
    (hb : s.params.regBase.toNat + off < 2 ^ 32)
    (h : s.host = .regRead .bits32 (s.params.regBase + BitVec.ofNat 32 off) :: rest) :
    step s = .next { observe { s with host := rest } (decide (off = Reg.offset .status) && !s.busy) with
      rdata := readOffset { s with host := rest } off } := by
  rw [step_eq_outcome]
  simp only [nextTurn, h, Turn.outcome, hostRegRead, registerOffset?_of_base hoff h4 hb]
  rfl

/-! ### Reads -/

/-- Settles O10, from the reset values of the fields. -/
theorem resetRegisterValues : Obligations.ResetRegisterValues := by
  refine ⟨rfl, by decide, fun r hid hctrl => ?_, fun off hoff => readOffset_reserved hoff, rfl, rfl⟩
  cases r with
  | id => exact absurd rfl hid
  | ctrl => exact absurd rfl hctrl
  | status => decide
  | cmd | srcAddr | srcLen | dstAddr | dstLen | arg | result0 | result1 | errinfo => rfl

theorem statusWord_getLsbD (s : State) (k : Nat) : s.statusWord.getLsbD k =
    if k = 0 then s.busy else if k = 1 then s.done else if k = 2 then s.err else if k = 3 then s.cmdLost
    else if 8 ≤ k ∧ k < 16 then s.errcode.getLsbD (k - 8) else false := by
  simp only [State.statusWord, BitVec.getLsbD_append, BitVec.getLsbD_ofBool]
  grind

theorem ctrlWord_getLsbD (s : State) (k : Nat) :
    s.ctrlWord.getLsbD k = if k = 0 then s.ie else if k = 1 then s.shortEnd else false := by
  simp only [State.ctrlWord, BitVec.getLsbD_append, BitVec.getLsbD_ofBool]
  grind

/-- Settles O11, from the fields the two words are put together of. -/
theorem statusAndCtrlBits : Obligations.StatusAndCtrlBits :=
  fun s k => ⟨statusWord_getLsbD s k, ctrlWord_getLsbD s k⟩

/-- R21, R29: the place `4 * i` of the block reads as its register, or as 0. -/
theorem readOffset_eq_registerAt (s : State) (i : Nat) : readOffset s (4 * i) = registerAt s i := by
  by_cases hi : i < 12
  · interval_cases i <;> rfl
  · rw [readOffset_reserved (by omega)]
    unfold registerAt
    grind

theorem readReg_host (s : State) (rest : List HostAction) (r : Reg) :
    readReg { s with host := rest } r = readReg s r := by
  cases r <;> rfl

theorem readOffset_host (s : State) (rest : List HostAction) (off : Nat) :
    readOffset { s with host := rest } off = readOffset s off := by
  unfold readOffset
  cases Reg.ofOffset? off with
  | none => rfl
  | some r => exact readReg_host s rest r

/-- Settles O12: the read answers with the place's register, and a STATUS read while idle is an observation. -/
theorem registerReadHasNoSideEffect : Obligations.RegisterReadHasNoSideEffect := by
  intro s rest i hi hb hhost
  have hobs : (s.unseen && !(decide (4 * i = Reg.offset .status) && !s.busy)) =
      if i = 2 ∧ s.busy = false then false else s.unseen := by
    have : 4 * i = Reg.offset .status ↔ i = 2 := by simp only [Reg.offset]; omega
    grind
  have hstep : step s = .next { s with
      host := rest
      unseen := if i = 2 ∧ s.busy = false then false else s.unseen
      rdata := readOffset s (4 * i) } := by
    rw [step_regRead (by omega) (by omega) hb hhost, readOffset_host, ← hobs]
    rfl
  constructor
  · rw [hstep]
    cases hr : Reg.ofOffset? (4 * i) <;> simp only [readOffset, hr]
  · rw [hstep, readOffset_eq_registerAt]

/-! ### Writes -/

/-- R26: a write to an operand register leaves what every other register reads as. -/
theorem readReg_writeReg_ne {s : State} {r q : Reg} {v : Word} (hr : r ∈ operandRegs) (hq : q ≠ r) :
    readReg (writeReg s r v) q = readReg s q := by
  simp only [operandRegs, List.mem_cons, List.not_mem_nil, or_false] at hr
  rcases hr with rfl | rfl | rfl | rfl | rfl <;> cases q <;>
    simp [readReg, writeReg, State.ctrlWord, State.statusWord, State.busy] at hq ⊢

/-- Settles O13: the write to an operand register sets its field alone. -/
theorem operandRegisterWriteReadsBack : Obligations.OperandRegisterWriteReadsBack := by
  constructor
  · intro s r v rest hr hb hhost
    refine ⟨_, step_writeReg r hb hhost, ?_⟩
    have hother := fun q hq => (readReg_writeReg_ne (s := { s with host := rest }) (v := v) (q := q) hr hq).trans
      (readReg_host s rest q)
    simp only [operandRegs, List.mem_cons, List.not_mem_nil, or_false] at hr
    rcases hr with rfl | rfl | rfl | rfl | rfl <;> exact ⟨rfl, hother, rfl⟩
  · intro s off v rest hb hhost
    refine ⟨?_, ?_, ?_, ?_, ?_⟩ <;> rintro rfl
    · exact step_writeReg .srcAddr hb hhost
    · exact step_writeReg .srcLen hb hhost
    · exact step_writeReg .dstAddr hb hhost
    · exact step_writeReg .dstLen hb hhost
    · exact step_writeReg .arg hb hhost

/-- Settles O14: a reserved offset names no register, and a read-only register keeps its value. -/
theorem reservedAndReadOnlyWritesIgnored : Obligations.ReservedAndReadOnlyWritesIgnored := by
  intro s off v rest hoff h4 hb hcase hhost
  rw [step_regWrite hoff h4 hb hhost]
  rcases hcase with hres | rfl | rfl | rfl | rfl
  · rw [writeOffset_reserved hres]
  · exact congrArg _ (writeOffset_offset _ .id v)
  · exact congrArg _ (writeOffset_offset _ .result0 v)
  · exact congrArg _ (writeOffset_offset _ .result1 v)
  · exact congrArg _ (writeOffset_offset _ .errinfo v)

/-- Settles O15: the acknowledgement, with each bit's clearing as a choice. -/
theorem statusWriteClearsWrittenBits : Obligations.StatusWriteClearsWrittenBits := by
  intro s v rest hb hhost
  have hclear : ∀ x k : Bool, (x && !k) = if k then false else x := by decide
  rw [step_writeReg .status hb hhost]
  simp only [writeReg, acknowledge, hclear]

/-- Settles O16: the write latches its word and the operands, and the flags that raise IRQ fall. -/
theorem cmdWriteWhileIdleStartsTheCommand : Obligations.CmdWriteWhileIdleStartsTheCommand := by
  intro s cw rest hb hidle hhost
  have hwrite : writeReg { s with host := rest } .cmd cw = startCommand { s with host := rest } cw :=
    if_neg (by simpa [State.busy] using hidle)
  refine ⟨startCommand { s with host := rest } cw, ?_, rfl, ?_, rfl, rfl⟩
  · rw [step_writeReg .cmd hb hhost, hwrite]
  · simp [State.irq]

/-- Settles O17: the lost write takes CMD's other branch. -/
theorem cmdWriteWhileBusyIsLost : Obligations.CmdWriteWhileBusyIsLost := by
  intro s cw rest hb hbusy hhost
  have hwrite : writeReg { s with host := rest } .cmd cw = { s with host := rest, cmdLost := true } := if_pos hbusy
  rw [step_writeReg .cmd hb hhost, hwrite]

/-! ### Soft reset -/

theorem readReg_resetTo (s : State) (m : Memory) (r : Reg) : readReg (resetTo s m) r = readReg State.reset r := by
  cases r <;> rfl

/-- R171: an abort keeps memory where no command runs, or the running one has not begun to write. -/
theorem abortedMemory_unwritten {s : State}
    (h : s.busy = false ∨ (s.wrote = false ∧ (s.phase ≠ .started ∨ s.op ≠ 1))) : abortedMemory s = s.mem := by
  rcases h with hidle | ⟨hwrote, hbegun⟩
  · exact abortedMemory_idle hidle
  · have hnot : (decide (s.phase = .started) && decide (s.op = 1)) = false := by
      rcases hbegun with hp | ho
      · rw [decide_eq_false hp, Bool.false_and]
      · rw [decide_eq_false ho, Bool.and_false]
    simp only [abortedMemory, abortedAfterWrite, hwrote, hnot, Bool.false_and, Bool.or_false, Bool.and_false,
      Bool.false_eq_true, if_false]

/-- Settles O18: bit 31 chooses between the soft reset and the two option bits. -/
theorem ctrlWriteAndSoftReset : Obligations.CtrlWriteAndSoftReset := by
  intro s v rest hb hhost
  have hstep := step_writeReg .ctrl hb hhost
  constructor
  · intro hv
    have hwrite : writeReg { s with host := rest } .ctrl v = softReset { s with host := rest } := if_pos hv
    exact ⟨_, hstep.trans (congrArg _ hwrite), readReg_resetTo _ _, rfl, rfl,
      fun h => abortedMemory_unwritten (s := { s with host := rest }) h,
      fun a ha => read_abortedMemory_outside (s := { s with host := rest }) ha⟩
  · intro hv
    have hwrite : writeReg { s with host := rest } .ctrl v = setCtrl { s with host := rest } v :=
      if_neg (Bool.eq_false_iff.mp hv)
    exact hstep.trans (congrArg _ hwrite)

/-! ### The interrupt output, and refused accesses -/

theorem irq_eq_true (s : State) : s.irq = true ↔ s.ie = true ∧ (s.done = true ∨ s.err = true) := by
  simp [State.irq]

/-- Settles O21: each part from the flags that its update leaves. -/
theorem irqFollowsCompletion : Obligations.IrqFollowsCompletion := by
  intro s
  refine ⟨fun r0 r1 => by simp [State.irq], fun d e info => by simp [State.irq], fun cw => by simp [State.irq],
    fun v h1 h2 => by simp [State.irq, h1, h2], fun v herr h1 => by simp [State.irq, herr, h1],
    fun v hdone h2 => by simp [State.irq, hdone, h2], irq_eq_true s, fun rest hhost => ?_⟩
  have hobs : (s.unseen && !(s.irq && !s.busy)) = if s.irq = true ∧ s.busy = false then false else s.unseen := by
    cases s.irq <;> cases s.busy <;> simp
  rw [step_eq_outcome, ← hobs]
  simp only [nextTurn, hhost]
  rfl

/-- R45: an access that is not 32 bits wide, or not at a multiple of 4, reaches no register. -/
theorem registerOffset?_refused {p : Params} {w : AccessWidth} {addr : Word}
    (h : w ≠ .bits32 ∨ (addr.toNat - p.regBase.toNat) % 4 ≠ 0) : registerOffset? p w addr = none := by
  cases hoff : registerOffset? p w addr with
  | none => rfl
  | some off =>
    obtain ⟨hw, -, rfl, -, h4⟩ := registerOffset?_some hoff
    exact absurd h4 (h.resolve_left (not_not.mpr hw))

/-- Settles O22: writes and reads alike. -/
theorem otherRegisterAccessesAreRefused : Obligations.OtherRegisterAccessesAreRefused := by
  intro s w addr v rest hbad hhost
  have hoff := registerOffset?_refused hbad
  rw [step_eq_outcome]
  rcases hhost with hhost | hhost
  · simp only [nextTurn, hhost, Turn.outcome, hostRegWrite, hoff]
  · simp only [nextTurn, hhost, Turn.outcome, hostRegRead, hoff]

end Sys2Proof.Machine
end

section
/-! PROOFS. A DECODE with a good trailer enters its selector loop (R141 to R143, R150). -/

namespace Sys2Proof.Machine

/-- R74: the terminator bit of a byte. -/
theorem byte_and_0x80 (b : Byte) : b.toNat &&& 0x80 ≠ 0 ↔ 128 ≤ b.toNat := by
  have hhalves : ∀ x : Fin 128, x.1 &&& 0x80 = 0 ∧ (x.1 + 128) &&& 0x80 ≠ 0 := by decide
  have hb := b.isLt
  rcases lt_or_ge b.toNat 128 with hlow | hhigh
  · have hzero := (hhalves ⟨b.toNat, hlow⟩).1
    exact ⟨fun h => absurd hzero h, fun h => absurd hlow (not_lt.mpr h)⟩
  · have hbit := (hhalves ⟨b.toNat - 128, by omega⟩).2
    simp only [Nat.sub_add_cancel hhigh] at hbit
    exact ⟨fun _ => hhigh, fun _ => hbit⟩

/-- R74, R141: a byte's group goes below the groups read before it. -/
theorem groupsValue_succ (m : Memory) (a t : Nat) :
    groupsValue m a (t + 1) = (groupsValue m (a + 1) t) <<< 7 ||| ((Memory.read m a).toNat &&& 0x7F) := by
  rw [and_0x7F, ← Nat.shiftLeft_add_eq_or_of_lt (show (Memory.read m a).toNat % 128 < 2 ^ 7 from Nat.mod_lt _ (by omega)),
    Nat.shiftLeft_eq, groupsValue]
  omega

/-- R141: the backward scan from byte `i` of a trailer of `t` bytes at `base + lo` finds its value and its length. -/
theorem vbyteScan_of_trailer {s : State} {base lo t : Nat} (hterm : 128 ≤ (Memory.read s.mem (base + lo)).toNat)
    (hothers : ∀ i, 0 < i → i < t → (Memory.read s.mem (base + lo + i)).toNat < 128)
    (hread : ∀ i, i < t → memRead s (base + lo + i) 1 = .ok (Memory.read s.mem (base + lo + i)).toNat) :
    ∀ {i left n : Nat}, i ≤ left → i + n = t → 0 < n →
      vbyteScan s base left (lo + i) (groupsValue s.mem (base + lo + i) n) n (Memory.read s.mem (base + lo + i)).toNat =
        .ok (groupsValue s.mem (base + lo) t, t)
  | 0, left, n, _, hn, _ => by
    obtain rfl : n = t := by omega
    unfold vbyteScan
    rw [Nat.add_zero, if_pos ((byte_and_0x80 _).mpr hterm)]
  | i + 1, left, n, hleft, hn, hpos => by
    obtain ⟨left, rfl⟩ := Nat.exists_eq_add_of_le' (show 1 ≤ left by omega)
    have hlow := hothers (i + 1) (by omega) (by omega)
    have hbit : ¬ ((Memory.read s.mem (base + lo + (i + 1))).toNat &&& 0x80 ≠ 0) := fun h =>
      absurd ((byte_and_0x80 _).mp h) (not_le.mpr hlow)
    have hnext := vbyteScan_of_trailer hterm hothers hread (i := i) (left := left) (n := n + 1) (by omega) (by omega)
      (by omega)
    rw [groupsValue_succ] at hnext
    rw [vbyteScan_succ, if_neg hbit, if_neg (by omega), show base + (lo + (i + 1) - 1) = base + lo + i by omega,
      hread i (by omega), andThen_ok, show lo + (i + 1) - 1 = lo + i by omega]
    exact hnext

/-- R141: the backward decoder of a range that answers and ends in a trailer. -/
theorem vbyteDec_of_trailerAt {s : State} {base len t : Nat} (h : TrailerAt s.mem base len t) (hex : base + len ≤ 2 ^ 32)
    (hr : NoBusErr s.params ⟨base, base + len⟩) (hv : trailerValue s.mem base len t < 2 ^ 32) :
    vbyteDec s base len = .ok (trailerValue s.mem base len t, t) := by
  obtain ⟨hpos, hfive, hlen, hterm, hothers⟩ := h
  have hread : ∀ i, i < t → memRead s (base + (len - t) + i) 1 = .ok (Memory.read s.mem (base + (len - t) + i)).toNat :=
    fun i hi => by
      rw [memRead_of_noBusErr hr (by simp only; omega) (by simp only; omega) hex]
      simp [Memory.readLE]
  obtain ⟨k, rfl⟩ := Nat.exists_eq_add_of_le' hpos
  have hscan := vbyteScan_of_trailer hterm hothers hread (i := k) (left := 4) (n := 1) (by omega) rfl (by omega)
  rw [groupsValue_succ, groupsValue, Nat.zero_shiftLeft, Nat.zero_or] at hscan
  rw [vbyteDec_eq_andThen, if_neg (by omega), show base + (len - 1) = base + (len - (k + 1)) + k by omega,
    hread k (by omega), andThen_ok, show len - 1 = len - (k + 1) + k by omega, hscan, andThen_ok]
  exact if_neg (not_le.mpr hv)

/-- Settles O43: the trailer's value and length set the context, and the output count chooses between the loop and the
completion. -/
theorem decodeEntersTheSelectorLoop : Obligations.DecodeEntersTheSelectorLoop := by
  intro s t hadm hsrc htrailer htV hVlen hV V u
  have hrun : exec .cmdDecode s = .next (endIfDone (enterUnpack s V t)) := by
    change finish decodeDest (runDecode s) = _
    rw [runDecode_eq_andThen s (decodeChecks_of_admitted hadm), vbyteDec_of_trailerAt htrailer hadm.srcLegal hsrc hV,
      andThen_ok, if_neg (not_lt.mpr htV), if_neg (not_lt.mpr hVlen), finish_ok]
  rw [hrun, endIfDone_enterUnpack]
  constructor
  · intro hdl
    rw [if_pos hdl]
    rfl
  · intro hdl
    rw [if_neg (by omega)]
    rfl

end Sys2Proof.Machine
end

section
/-! PROOFS. The promoter's passes are the rules of R81 to R87, and no entry of a source value is lowered (R89). -/

namespace Sys2Proof.Machine

/-! ### Pass 1 -/

/-- The largest of a group of four entries, 0 past the end of the array. -/
def groupMax (ws : List Nat) (i : Nat) : Nat :=
  max (max (ws.getD i 0) (ws.getD (i + 1) 0)) (max (ws.getD (i + 2) 0) (ws.getD (i + 3) 0))

theorem maxEntry_take_four (ws : List Nat) : maxEntry (ws.take 4) = groupMax ws 0 := by
  rcases ws with _ | ⟨a, _ | ⟨b, _ | ⟨c, _ | ⟨d, ws⟩⟩⟩⟩ <;> simp [maxEntry, groupMax, max_assoc]

theorem getD_drop (ws : List Nat) (k i : Nat) : (ws.drop k).getD i 0 = ws.getD (k + i) 0 := by
  simp [List.getD_eq_getElem?_getD, List.getElem?_drop]

theorem groupMax_drop (ws : List Nat) (k i : Nat) : groupMax (ws.drop k) i = groupMax ws (k + i) := by
  simp only [groupMax, getD_drop, Nat.add_assoc]

theorem pass1Groups_nil (g : Nat) : pass1Groups g [] = [] := by cases g <;> rfl

/-- R83: the first group, and pass 1 on the rest. -/
theorem pass1Groups_succ (g : Nat) (ws : List Nat) : pass1Groups (g + 1) ws =
    List.replicate (ws.take 4).length (groupMax ws 0) ++ pass1Groups g (ws.drop 4) := by
  rw [← maxEntry_take_four]
  cases ws with
  | nil => simp [pass1Groups_nil]
  | cons x xs => rfl

/-- R83: what pass 1 does entry by entry. -/
theorem pass1Groups_getD (g : Nat) : ∀ ws : List Nat, (pass1Groups g ws).length = ws.length ∧
    ∀ i, i < ws.length →
      (pass1Groups g ws).getD i 0 = if i < 4 * g then groupMax ws (4 * (i / 4)) else ws.getD i 0 := by
  induction g with
  | zero => exact fun ws => ⟨rfl, fun i _ => by simp [pass1Groups]⟩
  | succ g ih =>
    intro ws
    obtain ⟨hlen, hget⟩ := ih (ws.drop 4)
    rw [pass1Groups_succ]
    refine ⟨by simp [hlen]; omega, fun i hi => ?_⟩
    by_cases h4 : i < 4
    · rw [List.getD_append _ _ _ _ (by simp; omega), if_pos (by omega), show 4 * (i / 4) = 0 by omega]
      simp [h4, hi]
    · obtain ⟨j, rfl⟩ := Nat.exists_eq_add_of_le (not_lt.mp h4)
      have hrest : (List.replicate (ws.take 4).length (groupMax ws 0)).length = 4 := by simp; omega
      rw [List.getD_append_right _ _ _ _ (by omega), hrest, Nat.add_sub_cancel_left, hget j (by simp; omega),
        groupMax_drop, getD_drop, show 4 + 4 * (j / 4) = 4 * ((4 + j) / 4) by omega]
      simp only [show j < 4 * g ↔ 4 + j < 4 * (g + 1) by omega]

theorem coarselyAligned_pass1 (n : Nat) (ws : List Nat) : CoarselyAligned n ws (pass1 n ws) :=
  pass1Groups_getD ((n + 3) / 4) ws

/-! ### The scan -/

/-- R69: the row of a width in the table of block sizes. -/
def blockRow (w : Width) : BlockRow := ⟨w.bits, w.typeCode.toNat, w.kind, w.blockInts, w.blockBytes⟩

theorem blockRow_mem_blockTable (w : Width) : blockRow w ∈ blockTable := by cases w <;> decide

theorem nextInChain (w : Width) : NextInChain w.bits w.next := ⟨w.typeCode.toNat, by cases w <;> exact ⟨rfl, rfl⟩⟩

/-- What stands in a window inside the array, entry by entry. -/
theorem mem_window_getD {ws : List Nat} {p len x : Nat} (h : p + len ≤ ws.length) :
    x ∈ window ws p len ↔ ∃ i, p ≤ i ∧ i < p + len ∧ ws.getD i 0 = x := by
  rw [mem_window]
  refine exists_congr fun i => and_congr_right fun _ => and_congr_right fun hi => ?_
  have hlt : i < ws.length := by omega
  simp [List.getD_eq_getElem?_getD, hlt]

theorem largestIn_maxEntry {ws : List Nat} {p n : Nat} (hp : p < n) (hn : n ≤ ws.length) :
    LargestIn ws p n (maxEntry (window ws p (n - p))) := by
  have hmem := fun x => mem_window_getD (ws := ws) (p := p) (len := n - p) (x := x) (by omega)
  rw [show p + (n - p) = n by omega] at hmem
  have hne : window ws p (n - p) ≠ [] := List.ne_nil_of_mem ((hmem _).mpr ⟨p, le_refl p, hp, rfl⟩)
  exact ⟨fun i h1 h2 => le_maxEntry ((hmem _).mpr ⟨i, h1, h2, rfl⟩), (hmem _).mp (maxEntry_mem hne)⟩

theorem LargestIn.unique {ws : List Nat} {p n m m' : Nat} (h : LargestIn ws p n m) (h' : LargestIn ws p n m') : m = m' := by
  obtain ⟨hle, i, hi1, hi2, rfl⟩ := h
  obtain ⟨hle', j, hj1, hj2, rfl⟩ := h'
  exact le_antisymm (hle' i hi1 hi2) (hle j hj1 hj2)

/-- R87: where the scan finds no short end, no row of the rule matches. -/
theorem noShortEnd_of_none {se : Bool} {n p : Nat} {ws : List Nat} (hp : p < n) (hn : n ≤ ws.length)
    (h : (if se then shortEndWidth (n - p) (maxEntry (window ws p (n - p))) else none) = none) : NoShortEnd se n p ws := by
  intro hse m width hm hend
  rw [hm.unique (largestIn_maxEntry hp hn), shortEnd_iff] at hend
  rw [if_pos hse, hend] at h
  cases h

/-- R87: the short end the scan takes is the rule's, with the option on. -/
theorem shortEnd_of_some {se : Bool} {rem m width : Nat} (h : (if se then shortEndWidth rem m else none) = some width) :
    se = true ∧ ShortEnd rem m width := by
  split at h
  · exact ⟨‹_›, shortEnd_iff.mpr h⟩
  · cases h

theorem length_mapWindow {f : Nat → Nat} {ws : List Nat} {p len : Nat} (h : p + len ≤ ws.length) :
    (mapWindow f ws p len).length = ws.length :=
  (mapWindow_changed f h).1

/-- R84 to R87: a scan that answers takes the steps of the promoter's rules. -/
theorem scan_promotes {scope : PromoteScope} {se : Bool} {n p' : Nat} {ws' : List Nat} : ∀ {fuel p : Nat} {ws : List Nat},
    scan scope se n fuel p ws = .ok (p', ws') → ws.length = n + 256 → Promotes scope se n p ws p' ws'
  | 0, _, _, h, _ => by cases h
  | fuel + 1, p, ws, h, hlen => by
    unfold scan at h
    split at h
    case isTrue hn =>
      cases h
      exact .ends hn
    case isFalse hn =>
    have hp : p < n := not_le.mp hn
    split at h
    case h_1 width hse =>
      cases h
      have hshort := shortEnd_of_some hse
      exact .shortEnd hp hshort.1 (largestIn_maxEntry hp (by omega)) hshort.2
        (mapWindow_changed _ (by omega))
    case h_2 hnone =>
    have hno := noShortEnd_of_none hp (by omega) hnone
    split at h
    case h_1 => cases h
    case h_2 w hw =>
    have hwindow : p + w.blockInts ≤ ws.length := by have := blockInts_le w; omega
    have hbits : (blockRow w).width = ws.getD p 0 := by
      rw [show (blockRow w).width = ws.getD p 64 from ofBits?_some hw]
      simp [List.getD_eq_getElem?_getD, show p < ws.length by omega]
    have hmem := fun x => mem_window_getD (ws := ws) (p := p) (len := w.blockInts) (x := x) hwindow
    split at h
    case isTrue hany =>
      obtain ⟨x, hx, hlt⟩ := List.any_eq_true.mp hany
      obtain ⟨i, hi1, hi2, rfl⟩ := (hmem x).mp hx
      have hexceeds : ∃ i, p ≤ i ∧ i < p + (blockRow w).ints ∧ (blockRow w).width < ws.getD i 0 := 
        ⟨i, hi1, hi2, of_decide_eq_true hlt⟩
      cases scope with
      | window =>
        exact .promotes hp hno (blockRow_mem_blockTable w) hbits hexceeds (nextInChain w)
          (fun _ => mapWindow_changed _ hwindow) (fun hs => by cases hs)
          (scan_promotes h ((length_mapWindow hwindow).trans hlen))
      | head =>
        exact .promotes hp hno (blockRow_mem_blockTable w) hbits hexceeds (nextInChain w) (fun hs => by cases hs)
          (fun _ => mapWindow_changed _ (by omega)) (scan_promotes h ((length_mapWindow (by omega)).trans hlen))
    case isFalse hany =>
      have hall : ∀ x ∈ window ws p w.blockInts, x ≤ w.bits := by simpa using hany
      exact .fills hp hno (blockRow_mem_blockTable w) hbits (fun i h1 h2 => hall _ ((hmem _).mpr ⟨i, h1, h2, rfl⟩))
        (mapWindow_changed _ hwindow) (scan_promotes h ((length_mapWindow hwindow).trans hlen))

/-! ### The encoder -/

/-- R149: the width scratch and the position the promoter leaves. -/
theorem promote_of_encodeBuffer {scope : PromoteScope} {se : Bool} {src : List Word} {r : Encoded}
    (h : encodeBuffer scope se src = .ok r) : promote scope se src.length (initWidths src) = .ok (r.pos, r.widths) := by
  unfold encodeBuffer at h
  split at h
  · cases h
  · rename_i pos ws hpromote
    split at h <;> cases h
    exact hpromote

/-- R89: the promoter lowers no entry of the classified widths. -/
theorem raised_promote {scope : PromoteScope} {se : Bool} {src : List Word} {pos : Nat} {ws : List Nat}
    (h : promote scope se src.length (initWidths src) = .ok (pos, ws)) : Raised (initWidths src) ws := by
  obtain ⟨hraised, hbound⟩ := raised_pass1Groups (g := (src.length + 3) / 4) (bounded_initWidths src)
  exact hraised.trans (scan_ok (bl := []) h (hraised.length_eq.symm.trans (length_initWidths src)) hbound rfl rfl).1

/-- Settles O33: pass 1 and the scan, step by step, and no entry lowered. -/
theorem promotedWidthsCoverClassifiedWidths : Obligations.PromotedWidthsCoverClassifiedWidths := by
  intro scope se src r h
  have hpromote := promote_of_encodeBuffer h
  have hraised := raised_promote hpromote
  have haligned := coarselyAligned_pass1 src.length (initWidths src)
  have hlen : r.widths.length = src.length + 256 := hraised.length_eq.symm.trans (length_initWidths src)
  refine ⟨hlen, fun i v hv => ?_, pass1 src.length (initWidths src), haligned,
    scan_promotes hpromote (haligned.1.trans (length_initWidths src))⟩
  obtain ⟨hi, rfl⟩ := List.getElem?_eq_some_iff.mp hv
  have hle := hraised.get (i := i) (by rw [length_initWidths]; omega) (by omega)
  have hinit : (initWidths src)[i]'(by rw [length_initWidths]; omega) = (classify src[i]).bits := by
    simp [initWidths, List.getElem_append_left, hi]
  simpa [hinit, List.getD_eq_getElem?_getD, show i < r.widths.length by omega] using hle

end Sys2Proof.Machine
end

section
/-! PROOFS. No step faults (R49, R53, R54), and the engine writes only inside its destination range (R54). -/

namespace Sys2Proof.Machine

/-! ### Faults -/

/-- A host action answers or is refused; the fault is the engine's alone. -/
theorem hostAnswer_ne_fault (s : State) (f : Fault) :
    (∀ w addr v, hostRegWrite s w addr v ≠ .fault f) ∧ (∀ w addr, hostRegRead s w addr ≠ .fault f) ∧
      (∀ a v, hostMemWrite s a v ≠ .fault f) ∧ ∀ a, hostMemRead s a ≠ .fault f := by
  refine ⟨fun w addr v => ?_, fun w addr => ?_, fun a v => ?_, fun a => ?_⟩
  · unfold hostRegWrite; split <;> simp
  · unfold hostRegRead; split <;> simp
  · unfold hostMemWrite; split_ifs <;> simp
  · unfold hostMemRead; split_ifs <;> simp

/-- Settles O53: the engine's turn always answers, and no host action faults. -/
theorem noStepFaults : Obligations.NoStepFaults := by
  intro s f h hstep
  rw [step_eq_outcome] at hstep
  rcases nextTurn_cases s with ⟨-, hturn⟩ | ⟨a, rest, -, hturn⟩ <;> rw [hturn] at hstep
  · obtain ⟨t, ht, -⟩ := engineTurn_answers (inv_afterTurn h)
    rw [ht] at hstep
    cases hstep
  · obtain ⟨hregWrite, hregRead, hmemWrite, hmemRead⟩ := hostAnswer_ne_fault { s with host := rest } f
    cases a with
    | regWrite w addr v => exact hregWrite w addr v hstep
    | regRead w addr => exact hregRead w addr hstep
    | memWrite addr v => exact hmemWrite addr.toNat v hstep
    | memRead addr => exact hmemRead addr.toNat hstep
    | irqRead | hwReset | engineTurn | wait => cases hstep

/-! ### Writes -/

/-- A command's work changes no byte outside `r`, neither where it succeeds nor by the error it raises, whose destination
range is `r`. -/
def WritesOnly (d : State → Range) (r : Range) (m : Memory) (x : Res State) : Prop :=
  (∀ t, x = .ok t → ∀ a, ¬ r.mem a → Memory.read t.mem a = Memory.read m a) ∧
    ∀ t e info, x = .error (.raise t e info) → d t = r ∧ ∀ a, ¬ r.mem a → Memory.read t.mem a = Memory.read m a

section Writes
variable {d : State → Range} {r : Range} {m : Memory}

theorem WritesOnly.ok {t : State} (h : ∀ a, ¬ r.mem a → Memory.read t.mem a = Memory.read m a) :
    WritesOnly d r m (.ok t) :=
  ⟨fun _ ht => by cases ht; exact h, fun _ _ _ ht => by cases ht⟩

theorem WritesOnly.raise {t : State} (e : ErrCode) (info : Nat) (hd : d t = r)
    (h : ∀ a, ¬ r.mem a → Memory.read t.mem a = Memory.read m a) : WritesOnly d r m (.error (.raise t e info)) :=
  ⟨fun _ ht => (by cases ht), fun _ _ _ ht => by cases ht; exact ⟨hd, h⟩⟩

theorem WritesOnly.fault (f : Fault) : WritesOnly d r m (.error (.fault f)) :=
  ⟨fun _ ht => (by cases ht), fun _ _ _ ht => by cases ht⟩

/-- R155: the error completion too changes no byte outside the range. -/
theorem WritesOnly.finish {x : Res State} {t : State} (hx : WritesOnly d r m x) (h : finish d x = .next t) {a : Nat}
    (ha : ¬ r.mem a) : Memory.read t.mem a = Memory.read m a := by
  rcases finish_next h with hok | ⟨u, e, info, herr, rfl⟩
  · exact hx.1 t hok a ha
  · obtain ⟨hd, hmem⟩ := hx.2 u e info herr
    rw [read_raiseError_outside (hd ▸ ha), hmem a ha]

end Writes

theorem not_mem_encodeDest {s : State} {a : Nat} (h : ¬ (encodeDest s).mem a) :
    a < s.da.toNat ∨ s.da.toNat + s.dl.toNat ≤ a := by
  simp only [encodeDest, Range.mem, not_and, not_lt] at h
  omega

theorem not_mem_decodeDest {s : State} {a : Nat} (h : ¬ (decodeDest s).mem a) :
    a < s.da.toNat ∨ s.da.toNat + 4 * s.dl.toNat ≤ a := by
  rw [mem_decodeDest] at h
  omega

theorem runEncode_writesOnly (s : State) : WritesOnly encodeDest (encodeDest s) s.mem (runEncode s) := by
  cases h : runEncode s with
  | ok t =>
    obtain ⟨r, u, hplan, -, hw, rfl⟩ := runEncode_ok h
    obtain ⟨-, hfits, -⟩ := planEncode_ok hplan
    exact .ok fun a ha => hw.frame a (by have := not_mem_encodeDest ha; omega)
  | error e =>
    unfold runEncode at h
    split at h
    case h_1 hplan =>
      cases h
      rcases planEncode_error hplan with ⟨t, e, info, rfl, rfl | ⟨r, rfl⟩⟩ | ⟨-, -, rfl⟩
      · exact .raise e info rfl fun _ _ => rfl
      · exact .raise e info rfl fun _ _ => rfl
      · exact .fault _
    case h_2 r hplan =>
      obtain ⟨-, hfits, -⟩ := planEncode_ok hplan
      split at h
      case h_1 hwrite =>
        cases h
        rcases writeAll_error hwrite with ⟨t, b, rfl, hw⟩ | ⟨-, rfl⟩
        · rw [List.length_map] at hw
          exact .raise _ b (by rw [hw.rest]; rfl)
            fun a ha => hw.frame a (by have := not_mem_encodeDest ha; omega)
        · exact .fault _
      case h_2 => cases h

@[simp] theorem endIfDone_mem (s : State) : (endIfDone s).mem = s.mem := by
  unfold endIfDone
  split <;> rfl

theorem runDecode_writesOnly (s : State) : WritesOnly decodeDest (decodeDest s) s.mem (runDecode s) := by
  cases h : runDecode s with
  | ok t =>
    obtain ⟨v, n, -, -, -, -, rfl⟩ := runDecode_ok h
    exact .ok fun a _ => by rw [endIfDone_mem, enterUnpack_mem]
  | error e =>
    rcases runDecode_error h with ⟨err, info, rfl⟩ | ⟨-, -, rfl⟩
    · exact .raise err info rfl fun _ _ => rfl
    · exact .fault _

theorem runVbyteDec_writesOnly (s : State) : WritesOnly noDest (noDest s) s.mem (runVbyteDec s) := by
  rcases runVbyteDec_cases s with ⟨v, n, h, -⟩ | ⟨e, info, h⟩ <;> rw [h]
  · exact .ok fun _ _ => rfl
  · exact .raise e info rfl fun _ _ => rfl

theorem runSelector_writesOnly (w : Width) (count : Nat) (s : State) :
    WritesOnly decodeDest (decodeDest s) s.mem (runSelector w count s) := by
  have hframe : ∀ {u : State}, UnpackedOnly s u → ∀ a, ¬ (decodeDest s).mem a →
      Memory.read u.mem a = Memory.read s.mem a := fun hu a ha =>
    hu.frame a (by have := not_mem_decodeDest ha; omega)
  rcases le_total s.dl.toNat s.oc with hoc | hoc
  · rw [runSelector_of_dl_le hoc]
    exact .ok fun a _ => by rw [endIfDone_mem]
  · rcases runSelector_cases w count s hoc with ⟨u, h, hu, -⟩ | ⟨u, e, info, h, hu, -⟩ | ⟨-, h⟩ <;> rw [h]
    · exact .ok fun a ha => by rw [endIfDone_mem]; exact hframe hu a ha
    · exact .raise e info (by rw [hu.rest]; rfl) (hframe hu)
    · exact .fault _

/-- R54, R50: a started command's turn writes inside its destination range only. -/
theorem read_fetchCommand_outside {s t : State} (h : (fetchCommand s).outcome = .next t) {a : Nat}
    (ha : ¬ (runningDest s).mem a) : Memory.read t.mem a = Memory.read s.mem a := by
  unfold fetchCommand at h
  split at h
  case h_1 i hi =>
    rcases decodeCommand_ok hi with ⟨hop, rfl⟩ | ⟨hop, rfl⟩ | ⟨-, rfl⟩ | ⟨-, rfl⟩ | ⟨-, rfl⟩
    · rw [runningDest, if_pos hop] at ha
      exact (runEncode_writesOnly s).finish h ha
    · rw [runningDest, hop, if_neg (by decide), if_pos rfl] at ha
      exact (runDecode_writesOnly s).finish h ha
    · cases h; rfl
    · cases h; rfl
    · exact (runVbyteDec_writesOnly s).finish h (fun hmem => absurd hmem.2 (Nat.not_lt_zero a))
  case h_2 =>
    cases h
    exact read_raiseError_outside fun hmem => absurd hmem.2 (Nat.not_lt_zero a)

/-- R54: a turn of the selector loop writes inside DECODE's destination range only. -/
theorem read_fetchSelector_outside {s t : State} (h : (fetchSelector s).outcome = .next t) {a : Nat}
    (ha : ¬ (decodeDest s).mem a) : Memory.read t.mem a = Memory.read s.mem a := by
  unfold fetchSelector at h
  split at h
  · cases h; rfl
  split at h
  · cases h
    exact read_raiseError_outside ha
  split at h
  case h_1 e he =>
    refine WritesOnly.finish (r := decodeDest s) ?_ h ha
    rcases memRead_error he with rfl | ⟨-, rfl⟩
    · exact .raise _ _ rfl fun _ _ => rfl
    · exact .fault _
  case h_2 =>
    split at h
    case h_1 i hi =>
      obtain ⟨w, c, rfl, -⟩ := decodeSelector_ok hi
      simp only [Turn.outcome, exec_sel] at h
      exact (runSelector_writesOnly w c s).finish h ha
    case h_2 =>
      cases h
      exact read_raiseError_outside ha

@[simp] theorem runningDest_afterTurn (s : State) : runningDest (afterTurn s) = runningDest s := by
  unfold afterTurn
  split <;> rfl

/-- Settles O54: the turn of each phase but the breached one writes inside the running command's destination range. -/
theorem engineWritesOnlyItsDestination : Obligations.EngineWritesOnlyItsDestination := by
  intro s t a hinv hmoves hphase hstep ha
  rw [step_eq_outcome, nextTurn_engine hmoves] at hstep
  rw [← runningDest_afterTurn] at ha
  rw [← afterTurn_mem s]
  unfold engineTurn at hstep
  split at hstep
  case h_1 => cases hstep; rfl
  case h_2 => exact read_fetchCommand_outside hstep ha
  case h_3 hp =>
    have hop : (afterTurn s).op = 2 := ((inv_afterTurn hinv).decode hp).op
    rw [runningDest, hop, if_neg (by decide), if_pos rfl] at ha
    exact read_fetchSelector_outside hstep ha
  case h_4 hp => exact absurd ((afterTurn_phase s).symm.trans hp) hphase

end Sys2Proof.Machine
end

section
/-! PROOFS. Error completions (R154, R155), and the static checks of ENCODE and DECODE in their order (R149, R150, R157). -/

namespace Sys2Proof.Machine

/-! ### Error completions -/

/-- R155: an error completion changes memory alone beyond its flags. -/
theorem raiseError_eq_failedUnwritten (s : State) (d : Range) (e : ErrCode) (info : Nat) :
    raiseError s d e info = { failedUnwritten s e info with mem := (raiseError s d e info).mem } := rfl

/-- R155: the error completion of a command that has performed no MemWrite. -/
theorem raiseError_unwritten {s : State} (h : s.wrote = false) (d : Range) (e : ErrCode) (info : Nat) :
    raiseError s d e info = failedUnwritten s e info := by
  rw [raiseError_eq_failedUnwritten, raiseError_mem, h]
  rfl

theorem code_mem_errorTable (e : ErrCode) : (e, e.code.toNat) ∈ errorTable := by cases e <;> decide

/-- Settles O50: the flags from the update, and memory by whether the command has written. -/
theorem errorCompletionKeepsTheRest : Obligations.ErrorCompletionKeepsTheRest := fun s dest e info =>
  ⟨rfl, rfl, code_mem_errorTable e, rfl, rfl, raiseError_eq_failedUnwritten s dest e info,
    fun hw => by rw [raiseError_unwritten hw]; rfl,
    fun hw hm _ ha hlt => read_raiseError_inside hw hm ha hlt, fun _ ha => read_raiseError_outside ha⟩

/-- An error of a command that has performed no MemWrite. -/
theorem finish_raise_unwritten {d : State → Range} {s : State} {e : ErrCode} {info : Nat} (h : s.wrote = false) :
    finish d (.error (.raise s e info)) = .next (failedUnwritten s e info) := by
  rw [finish_raise, raiseError_unwritten h]

/-! ### Static checks -/

/-- R52: ranges of `m` bytes at `a` and `n` bytes at `b` overlap. -/
theorem rangesOverlap_iff {a b m n : Nat} :
    rangesOverlap ⟨a, a + m⟩ ⟨b, b + n⟩ = true ↔ 0 < m ∧ 0 < n ∧ a < b + n ∧ b < a + m := by
  simp only [rangesOverlap, Bool.and_eq_true, decide_eq_true_eq]
  omega

theorem rangeWraps_iff {a n : Nat} : rangeWraps ⟨a, a + n⟩ = true ↔ 2 ^ 32 < a + n := decide_eq_true_iff

theorem exec_cmdEncode_of_check {s : State} {e : ErrCode} {info : Nat} (hw : s.wrote = false)
    (h : encodeChecks s = some (e, info)) : exec .cmdEncode s = .next (failedUnwritten s e info) := by
  have hrun : runEncode s = .error (.raise s e info) := by simp only [runEncode, planEncode, h]
  change finish encodeDest (runEncode s) = _
  rw [hrun, finish_raise_unwritten hw]

theorem exec_cmdDecode_of_check {s : State} {e : ErrCode} {info : Nat} (hw : s.wrote = false)
    (h : decodeChecks s = some (e, info)) : exec .cmdDecode s = .next (failedUnwritten s e info) := by
  have hrun : runDecode s = .error (.raise s e info) := by simp only [runDecode, h]
  change finish decodeDest (runDecode s) = _
  rw [hrun, finish_raise_unwritten hw]

/-- R149, R157: ENCODE's static checks, in the words of R48, R51 and R52. -/
theorem encodeChecks_eq (s : State) : encodeChecks s =
    if s.sa.toNat % 4 ≠ 0 then some (.misaligned, 1)
    else if s.da.toNat % 4 ≠ 0 then some (.misaligned, 2)
    else if s.params.maxN < s.sl.toNat then some (.tooLong, 0)
    else if 2 ^ 32 < s.sa.toNat + 4 * s.sl.toNat then some (.addrRange, 1)
    else if 2 ^ 32 < s.da.toNat + s.dl.toNat then some (.addrRange, 2)
    else if 0 < s.sl.toNat ∧ 0 < s.dl.toNat ∧ s.sa.toNat < s.da.toNat + s.dl.toNat ∧
        s.da.toNat < s.sa.toNat + 4 * s.sl.toNat then some (.overlap, 0)
    else none := by
  simp only [encodeChecks, wordSource, encodeDest, rangeWraps_iff, rangesOverlap_iff,
    show 0 < 4 * s.sl.toNat ↔ 0 < s.sl.toNat by omega]

/-- R150, R157: DECODE's static checks, in the words of R48, R51 and R52. -/
theorem decodeChecks_eq (s : State) : decodeChecks s =
    if s.sa.toNat % 4 ≠ 0 then some (.misaligned, 1)
    else if s.da.toNat % 4 ≠ 0 then some (.misaligned, 2)
    else if 2 ^ 32 < s.sa.toNat + 4 * s.sl.toNat then some (.addrRange, 1)
    else if 2 ^ 32 < s.da.toNat + 4 * s.dl.toNat then some (.addrRange, 2)
    else if 0 < s.sl.toNat ∧ 0 < s.dl.toNat ∧ s.sa.toNat < s.da.toNat + 4 * s.dl.toNat ∧
        s.da.toNat < s.sa.toNat + 4 * s.sl.toNat then some (.overlap, 0)
    else none := by
  simp only [decodeChecks, wordSource, decodeDest, rangeWraps_iff, rangesOverlap_iff,
    show 0 < 4 * s.sl.toNat ↔ 0 < s.sl.toNat by omega, show 0 < 4 * s.dl.toNat ↔ 0 < s.dl.toNat by omega]

/-- R157: the first of a chain of static checks, and the checks after it. -/
theorem firstCheck {checks later : Option (ErrCode × Nat)} {x : ErrCode × Nat} {c A B : Prop} [Decidable c]
    (h : checks = if c then some x else later) (hfails : checks = some x → A) (hpasses : ¬ c → checks = later → B) :
    if c then A else B := by
  split
  case isTrue hc => exact hfails (h.trans (if_pos hc))
  case isFalse hc => exact hpasses hc (h.trans (if_neg hc))

/-- Settles O29: check by check, in their order. -/
theorem encodeStaticCheckOrder : Obligations.EncodeStaticCheckOrder := by
  intro s hw
  have hfails : ∀ {e info}, encodeChecks s = some (e, info) → exec .cmdEncode s = .next (failedUnwritten s e info) :=
    exec_cmdEncode_of_check hw
  exact firstCheck (encodeChecks_eq s) hfails fun hsrc h => firstCheck h hfails fun hdst h =>
    firstCheck h hfails fun hlong h => firstCheck h hfails fun hsrcEnd h => firstCheck h hfails fun hdstEnd h =>
    firstCheck h hfails fun hapart _ =>
      ⟨not_not.mp hsrc, not_not.mp hdst, not_lt.mp hlong, not_lt.mp hsrcEnd, not_lt.mp hdstEnd, hapart⟩

/-- Settles O42: check by check, in their order. -/
theorem decodeStaticCheckOrder : Obligations.DecodeStaticCheckOrder := by
  intro s hw
  have hfails : ∀ {e info}, decodeChecks s = some (e, info) → exec .cmdDecode s = .next (failedUnwritten s e info) :=
    exec_cmdDecode_of_check hw
  exact firstCheck (decodeChecks_eq s) hfails fun hsrc h => firstCheck h hfails fun hdst h =>
    firstCheck h hfails fun hsrcEnd h => firstCheck h hfails fun hdstEnd h => firstCheck h hfails fun hapart _ =>
      ⟨not_not.mp hsrc, not_not.mp hdst, not_lt.mp hsrcEnd, not_lt.mp hdstEnd, hapart⟩

/-- R149: the static checks of an admitted ENCODE pass. -/
theorem encodeChecks_of_admitted {s : State} (h : EncodeAdmitted s) : encodeChecks s = none := by
  obtain ⟨hsrc, hdst, hlong, hsrcEnd, hdstEnd, hapart⟩ := h
  rw [encodeChecks_eq, if_neg (not_not.mpr hsrc), if_neg (not_not.mpr hdst), if_neg (not_lt.mpr hlong),
    if_neg (not_lt.mpr hsrcEnd), if_neg (not_lt.mpr hdstEnd), if_neg hapart]

end Sys2Proof.Machine
end

section
/-! PROOFS. The host's accesses to memory and its duties over a command's ranges (R56, R173). -/

namespace Sys2Proof.Machine

theorem guarded_iff (s : State) : s.guarded = true ↔ s.busy = true ∨ s.unseen = true := by
  simp [State.guarded]

/-- R173: a breach over a state that differs in its pending host actions, and in one byte of the ranges, is a breach over
the state. -/
theorem breached_hostBreach {s : State} {m : Memory} {rest : List HostAction}
    (hwf : Memory.wf s.mem = true → Memory.wf m = true)
    (hmem : ∀ a, ¬ (runningSource s).mem a → ¬ (runningDest s).mem a → Memory.read m a = Memory.read s.mem a) :
    Breached s (hostBreach { s with host := rest, mem := m }) where
  inside hm a ha hlt := by
    rw [hostBreach_mem]
    exact read_breachedMemory_inside (s := { s with host := rest, mem := m }) (hwf hm) ha hlt
  outside a h1 h2 := by
    rw [hostBreach_mem]
    exact (read_breachedMemory_outside (s := { s with host := rest, mem := m }) h1 h2).trans (hmem a h1 h2)
  running hb := by
    rw [show hostBreach { s with host := rest, mem := m } = breach { s with host := rest, mem := m } from if_pos hb]
    rfl
  completed hb := by
    rw [show hostBreach { s with host := rest, mem := m } = lateBreach { s with host := rest, mem := m } from
      if_neg (Bool.eq_false_iff.mp hb)]
    exact ⟨rfl, lateBreach_flags _⟩

theorem Breached.withRead {s t : State} (h : Breached s t) (v : Word) : Breached s { t with rdata := v } where
  inside := h.inside
  outside := h.outside
  running hb := by rw [h.running hb]
  completed hb := by
    obtain ⟨heq, hflags⟩ := h.completed hb
    exact ⟨by rw [heq], hflags⟩

@[simp] theorem hostBreach_rdata (s : State) : (hostBreach s).rdata = s.rdata := by unfold hostBreach; split <;> rfl

/-! ### Writes and reads -/

theorem step_memWrite {s : State} {addr : Word} {v : Byte} {rest : List HostAction}
    (h : s.host = .memWrite addr v :: rest) : step s = hostMemWrite { s with host := rest } addr.toNat v := by
  rw [step_eq_outcome]
  simp only [nextTurn, h, Turn.outcome]

theorem step_memRead {s : State} {addr : Word} {rest : List HostAction} (h : s.host = .memRead addr :: rest) :
    step s = hostMemRead { s with host := rest } addr.toNat := by
  rw [step_eq_outcome]
  simp only [nextTurn, h, Turn.outcome]

/-- R173: a write where no duty holds or outside the ranges stores its byte. -/
theorem hostMemWrite_allowed {s : State} {a : Nat} {v : Byte} (hbus : busErrAt s.params a = false)
    (h : s.guarded = false ∨ (¬ (runningSource s).mem a ∧ ¬ (runningDest s).mem a)) :
    hostMemWrite s a v = .next { s with mem := Memory.write s.mem a v } := by
  have hno : ¬ (s.guarded ∧ ((runningSource s).mem a ∨ (runningDest s).mem a)) := by
    rintro ⟨hg, hmem⟩
    rcases h with hfree | ⟨h1, h2⟩
    · rw [hfree] at hg; cases hg
    · exact hmem.elim h1 h2
  rw [hostMemWrite, if_neg (Bool.eq_false_iff.mp hbus), if_neg hno]

theorem hostMemWrite_breach {s : State} {a : Nat} {v : Byte} (hbus : busErrAt s.params a = false)
    (hg : s.guarded = true) (h : (runningSource s).mem a ∨ (runningDest s).mem a) :
    hostMemWrite s a v = .next (hostBreach { s with mem := Memory.write s.mem a v }) := by
  rw [hostMemWrite, if_neg (Bool.eq_false_iff.mp hbus), if_pos ⟨hg, h⟩]

/-- R173: a read where no duty holds or outside the destination range returns its byte. -/
theorem hostMemRead_allowed {s : State} {a : Nat} (hbus : busErrAt s.params a = false)
    (h : s.guarded = false ∨ ¬ (runningDest s).mem a) :
    hostMemRead s a = .next { s with rdata := (Memory.read s.mem a).setWidth 32 } := by
  have hno : ¬ (s.guarded ∧ (runningDest s).mem a) := by
    rintro ⟨hg, hmem⟩
    rcases h with hfree | hout
    · rw [hfree] at hg; cases hg
    · exact hout hmem
  rw [hostMemRead, if_neg (Bool.eq_false_iff.mp hbus), if_neg hno]

theorem hostMemRead_breach {s : State} {a : Nat} (hbus : busErrAt s.params a = false) (hg : s.guarded = true)
    (h : (runningDest s).mem a) :
    hostMemRead s a = .next { hostBreach s with rdata := (Memory.read (hostBreach s).mem a).setWidth 32 } := by
  rw [hostMemRead, if_neg (Bool.eq_false_iff.mp hbus), if_pos ⟨hg, h⟩]

theorem step_memWrite_breach {s : State} {addr : Word} {v : Byte} {rest : List HostAction}
    (h : s.host = .memWrite addr v :: rest) (hbus : busErrAt s.params addr.toNat = false) (hg : s.guarded = true)
    (hmem : (runningSource s).mem addr.toNat ∨ (runningDest s).mem addr.toNat) :
    ∃ t, step s = .next t ∧ t.host = rest ∧ t.rdata = s.rdata ∧ Breached s t := by
  refine ⟨_, (step_memWrite h).trans (hostMemWrite_breach hbus hg hmem), hostBreach_host _, hostBreach_rdata _,
    breached_hostBreach (fun hm => write_wf hm addr.isLt v) fun a h1 h2 => read_write_ne v ?_ s.mem⟩
  rintro rfl
  exact hmem.elim h1 h2

theorem step_memRead_breach {s : State} {addr : Word} {rest : List HostAction}
    (h : s.host = .memRead addr :: rest) (hbus : busErrAt s.params addr.toNat = false) (hg : s.guarded = true)
    (hmem : (runningDest s).mem addr.toNat) :
    ∃ t, step s = .next t ∧ t.host = rest ∧ t.rdata = (Memory.read t.mem addr.toNat).setWidth 32 ∧ Breached s t :=
  ⟨_, (step_memRead h).trans (hostMemRead_breach hbus hg hmem), hostBreach_host _, rfl,
    (breached_hostBreach (m := s.mem) (rest := rest) id fun _ _ _ => rfl).withRead _⟩

theorem step_memory_refused {s : State} {addr : Word} {v : Byte} {rest : List HostAction}
    (h : s.host = .memWrite addr v :: rest ∨ s.host = .memRead addr :: rest)
    (hbus : busErrAt s.params addr.toNat = true) : step s = .refused .hostMemoryError := by
  rcases h with h | h
  · exact (step_memWrite h).trans (if_pos hbus)
  · exact (step_memRead h).trans (if_pos hbus)

/-! ### The end of a breached command, and the ends of the duties -/

/-- R173: a breached command ends with DONE or ERR but not both, over free ranges. -/
theorem finishBreached_ends {s : State} (hdone : s.done = false) (herr : s.err = false) :
    (finishBreached s).busy = false ∧ ((finishBreached s).done = true ↔ (finishBreached s).err = false) ∧
      (finishBreached s).unseen = s.unseen ∧ (finishBreached s).mem = breachedMemory s := by
  unfold finishBreached
  split
  · exact ⟨rfl, by simp [herr], rfl, rfl⟩
  · exact ⟨rfl, by simp [hdone], rfl, rfl⟩

theorem step_breached {s : State} (hphase : s.phase = .breached) (hmoves : EngineMoves s) :
    step s = .next (finishBreached (afterTurn s)) := by
  rw [step_eq_outcome, nextTurn_engine hmoves, engineTurn, afterTurn_phase, hphase]
  rfl

@[simp] theorem afterTurn_done (s : State) : (afterTurn s).done = s.done := by unfold afterTurn; split <;> rfl
@[simp] theorem afterTurn_err (s : State) : (afterTurn s).err = s.err := by unfold afterTurn; split <;> rfl

@[simp] theorem breachedMemory_afterTurn (s : State) : breachedMemory (afterTurn s) = breachedMemory s := by
  unfold afterTurn
  split <;> rfl

theorem guarded_resetTo (s : State) (m : Memory) : (resetTo s m).guarded = false := rfl

/-- Settles O20: each access by where it reaches, the breached command's end, and the three ends of the duties. -/
theorem hostMemoryWritesAndBreaches : Obligations.HostMemoryWritesAndBreaches := by
  intro s
  refine ⟨guarded_iff s, fun addr v rest h hbus => ⟨fun hfree => ?_, step_memWrite_breach h hbus⟩,
    fun addr rest h hbus => ⟨fun hfree => ?_, step_memRead_breach h hbus⟩,
    fun addr v rest => step_memory_refused, fun hphase hdone herr hmoves => ?_, fun rest h hidle => ?_,
    fun rest h => ⟨hardwareReset { s with host := rest }, ?_, guarded_resetTo _ _⟩, fun v hv => ?_⟩
  · exact (step_memWrite h).trans (hostMemWrite_allowed (s := { s with host := rest }) hbus hfree)
  · exact (step_memRead h).trans (hostMemRead_allowed (s := { s with host := rest }) hbus hfree)
  · obtain ⟨hbusy, hflags, hunseen, hmem⟩ := finishBreached_ends (s := afterTurn s)
      ((afterTurn_done s).trans hdone) ((afterTurn_err s).trans herr)
    rw [breachedMemory_afterTurn] at hmem
    refine ⟨_, step_breached hphase hmoves, hbusy, hflags, hunseen.trans (afterTurn_unseen s), ?_, ?_⟩ <;> rw [hmem]
    · exact fun hm a ha hlt => read_breachedMemory_inside hm ha hlt
    · exact fun a h1 h2 => read_breachedMemory_outside h1 h2
  · rw [step_eq_outcome]
    simp only [nextTurn, h, hidle, Turn.outcome, observe, Bool.not_true, Bool.and_false, Bool.false_eq_true, if_false]
  · rw [step_eq_outcome]
    simp only [nextTurn, h, Turn.outcome]
  · rw [show writeReg s .ctrl v = softReset s from if_pos hv]
    exact guarded_resetTo _ _

end Sys2Proof.Machine
end

section
/-! PROOFS. The backward decoder where it finds no trailer, or meets a bus error (R141, R153, R156). -/

namespace Sys2Proof.Machine

/-- R156: a read of one byte that exists and answers. -/
theorem memRead_byte {s : State} {a : Nat} (hex : a < 2 ^ 32) (hbus : busErrAt s.params a = false) :
    memRead s a 1 = .ok (Memory.read s.mem a).toNat := by
  have hacc : access s a 1 = .ok () := access_ok_iff.mpr ⟨hex, fun i hi => by
    obtain rfl : i = 0 := by omega
    exact hbus⟩
  rw [memRead_of_access hacc]
  simp [Memory.readLE]

/-- R156: a read with a byte that answers with a bus error. -/
theorem access_busError {s : State} {a n : Nat} (hex : a + n ≤ 2 ^ 32)
    (hbus : ∃ i, i < n ∧ busErrAt s.params (a + i) = true) : access s a n = .error (.raise s .busError a) := by
  rcases access_cases s a n with h | h | ⟨hlt, -⟩
  · obtain ⟨i, hi, hb⟩ := hbus
    have hok := (access_ok_iff.mp h).2 i hi
    rw [hb] at hok
    cases hok
  · exact h
  · omega

theorem memRead_busError {s : State} {a n : Nat} (hex : a + n ≤ 2 ^ 32)
    (hbus : ∃ i, i < n ∧ busErrAt s.params (a + i) = true) : memRead s a n = .error (.raise s .busError a) := by
  rw [memRead_eq_andThen, access_busError hex hbus, andThen_error]

theorem memWrite_busError {s : State} {a n : Nat} (v : Nat) (hex : a + n ≤ 2 ^ 32)
    (hbus : ∃ i, i < n ∧ busErrAt s.params (a + i) = true) : memWrite s a n v = .error (.raise s .busError a) := by
  rw [memWrite_eq_andThen, access_busError hex hbus, andThen_error]

/-! ### The scan -/

/-- R141: the `len` bytes at `base` exist, and the last `k` of them answer and carry no terminator. -/
structure LowBytes (s : State) (base len k : Nat) : Prop where
  exist : base + len ≤ 2 ^ 32
  answers : ∀ j, j < k → busErrAt s.params (base + (len - 1 - j)) = false
  low : ∀ j, j < k → (Memory.read s.mem (base + (len - 1 - j))).toNat < 128

/-- R141: the backward decoder once it has read the byte `b` at index `i`. -/
def decodeFrom (s : State) (base left i acc n b : Nat) : Res (Nat × Nat) :=
  (vbyteScan s base left i acc n b).andThen fun x =>
    if 2 ^ 32 ≤ x.1 then .error (.raise s .badTrailer 3) else .ok x

theorem vbyteDec_eq_decodeFrom {s : State} {base len : Nat} (h : 0 < len) : vbyteDec s base len =
    (memRead s (base + (len - 1)) 1).andThen fun b => decodeFrom s base 4 (len - 1) (b &&& 0x7F) 1 b := by
  rw [vbyteDec_eq_andThen, if_neg (by omega)]
  rfl

theorem low_and_0x80 {b : Byte} (h : b.toNat < 128) : ¬ (b.toNat &&& 0x80 ≠ 0) := fun hbit =>
  absurd ((byte_and_0x80 b).mp hbit) (not_le.mpr h)

/-- R141: after a byte without the terminator the decoder reads the one before it. -/
theorem decodeFrom_of_low {s : State} {base left i acc n : Nat} {b : Byte} (hb : b.toNat < 128) (hi : 0 < i) :
    decodeFrom s base (left + 1) i acc n b.toNat = (memRead s (base + (i - 1)) 1).andThen fun b' =>
      decodeFrom s base left (i - 1) ((acc <<< 7) ||| (b' &&& 0x7F)) (n + 1) b' := by
  rw [decodeFrom, vbyteScan_succ, if_neg (low_and_0x80 hb), if_neg (by omega)]
  cases memRead s (base + (i - 1)) 1 <;> rfl

/-- R141: a fifth byte without the terminator. -/
theorem decodeFrom_fifth_low {s : State} {base i acc n : Nat} {b : Byte} (hb : b.toNat < 128) :
    decodeFrom s base 0 i acc n b.toNat = .error (.raise s .badTrailer 2) := by
  rw [decodeFrom, vbyteScan, if_neg (low_and_0x80 hb), andThen_error]

/-- R141: the first byte of the range without the terminator. -/
theorem decodeFrom_first_low {s : State} {base left acc n : Nat} {b : Byte} (hb : b.toNat < 128) :
    decodeFrom s base (left + 1) 0 acc n b.toNat = .error (.raise s .badTrailer 1) := by
  rw [decodeFrom, vbyteScan_succ, if_neg (low_and_0x80 hb), if_pos rfl, andThen_error]

/-- R141: where the last `k` bytes answer without a terminator, the decoder goes on with the byte before them. -/
theorem vbyteDec_of_lowBytes {s : State} {base len : Nat} : ∀ {k : Nat}, LowBytes s base len k → k < 5 → k < len →
    ∃ acc : Nat → Nat, vbyteDec s base len = (memRead s (base + (len - 1 - k)) 1).andThen fun b =>
      decodeFrom s base (4 - k) (len - 1 - k) (acc b) (k + 1) b
  | 0, _, _, hlen => ⟨_, vbyteDec_eq_decodeFrom hlen⟩
  | k + 1, h, hk, hlen => by
    obtain ⟨acc, hacc⟩ := vbyteDec_of_lowBytes (k := k)
      ⟨h.exist, fun j hj => h.answers j (by omega), fun j hj => h.low j (by omega)⟩ (by omega) (by omega)
    have hex := h.exist
    refine ⟨fun b' => acc (Memory.read s.mem (base + (len - 1 - k))).toNat <<< 7 ||| (b' &&& 0x7F), ?_⟩
    rw [hacc, memRead_byte (by omega) (h.answers k (by omega)), andThen_ok, show 4 - k = 4 - (k + 1) + 1 by omega,
      decodeFrom_of_low (h.low k (by omega)) (by omega), show len - 1 - k - 1 = len - 1 - (k + 1) by omega]

/-- R141: the decoder reads the first of `k + 1` low bytes too. -/
theorem vbyteDec_after_lowBytes {s : State} {base len k : Nat} (h : LowBytes s base len (k + 1)) (hk : k < 5)
    (hlen : k < len) : ∃ acc, vbyteDec s base len = decodeFrom s base (4 - k) (len - 1 - k) acc (k + 1)
      (Memory.read s.mem (base + (len - 1 - k))).toNat := by
  obtain ⟨acc, hacc⟩ := vbyteDec_of_lowBytes (k := k)
    ⟨h.exist, fun j hj => h.answers j (by omega), fun j hj => h.low j (by omega)⟩ hk hlen
  have hex := h.exist
  rw [memRead_byte (by omega) (h.answers k (by omega)), andThen_ok] at hacc
  exact ⟨_, hacc⟩

/-- R141: BAD_TRAILER with 2: the last five bytes carry no terminator. -/
theorem vbyteDec_unterminated {s : State} {base len : Nat} (h : LowBytes s base len 5) (hlen : 5 ≤ len) :
    vbyteDec s base len = .error (.raise s .badTrailer 2) := by
  obtain ⟨acc, hacc⟩ := vbyteDec_after_lowBytes h (by omega) (by omega)
  rw [hacc, decodeFrom_fifth_low (h.low 4 (by omega))]

/-- R141: BAD_TRAILER with 1: a range of fewer than five bytes carries no terminator. -/
theorem vbyteDec_short {s : State} {base len : Nat} (h : LowBytes s base len len) (hlen : len < 5) :
    vbyteDec s base len = .error (.raise s .badTrailer 1) := by
  rcases len with _ | k
  · rw [vbyteDec_eq_andThen, if_pos rfl]
  · obtain ⟨acc, hacc⟩ := vbyteDec_after_lowBytes h (by omega) (by omega)
    have hlow := h.low k (by omega)
    rw [hacc, show 4 - k = 3 - k + 1 by omega]
    rw [show k + 1 - 1 - k = 0 by omega] at hlow ⊢
    exact decodeFrom_first_low hlow

/-- R141, R156: the scan meets a bus error. -/
theorem vbyteDec_busError {s : State} {base len k : Nat} (hex : base + len ≤ 2 ^ 32) (h : ScanBusError s base len k) :
    vbyteDec s base len = .error (.raise s .busError (base + (len - 1 - k))) := by
  obtain ⟨hshort, hin, hbefore, hfails⟩ := h
  obtain ⟨acc, hacc⟩ := vbyteDec_of_lowBytes (k := k)
    ⟨hex, fun j hj => (hbefore j hj).1, fun j hj => (hbefore j hj).2⟩ hshort hin
  have hbus : ∃ i, i < 1 ∧ busErrAt s.params (base + (len - 1 - k) + i) = true := ⟨0, by omega, hfails⟩
  rw [hacc, memRead_busError (by omega) hbus, andThen_error]

/-- R141: BAD_TRAILER with 3: a trailer of a value of 2^32 or more. -/
theorem vbyteDec_large {s : State} {base len t : Nat} (h : TrailerAt s.mem base len t) (hex : base + len ≤ 2 ^ 32)
    (hr : NoBusErr s.params ⟨base, base + len⟩) (hv : 2 ^ 32 ≤ trailerValue s.mem base len t) :
    vbyteDec s base len = .error (.raise s .badTrailer 3) := by
  obtain ⟨hpos, hfive, hlen, hterm, hothers⟩ := h
  have hread : ∀ i, i < t → memRead s (base + (len - t) + i) 1 = .ok (Memory.read s.mem (base + (len - t) + i)).toNat :=
    fun i hi => memRead_byte (by omega) (hr _ ⟨by simp only; omega, by simp only; omega⟩)
  obtain ⟨k, rfl⟩ := Nat.exists_eq_add_of_le' hpos
  have hscan := vbyteScan_of_trailer hterm hothers hread (i := k) (left := 4) (n := 1) (by omega) rfl (by omega)
  rw [groupsValue_succ, groupsValue, Nat.zero_shiftLeft, Nat.zero_or] at hscan
  rw [vbyteDec_eq_decodeFrom (by omega), show base + (len - 1) = base + (len - (k + 1)) + k by omega,
    hread k (by omega), andThen_ok, decodeFrom, show len - 1 = len - (k + 1) + k by omega, hscan, andThen_ok]
  exact if_pos hv

/-! ### VBYTE_DEC -/

theorem exec_cmdVbyteDec_of_error {s : State} {e : ErrCode} {info : Nat} (hw : s.wrote = false)
    (hex : s.sa.toNat + s.sl.toNat ≤ 2 ^ 32) (h : vbyteDec s s.sa.toNat s.sl.toNat = .error (.raise s e info)) :
    exec .cmdVbyteDec s = .next (failedUnwritten s e info) := by
  have hcheck : vbyteDecChecks s = none := if_neg (by rw [byteSource, rangeWraps_iff]; omega)
  change finish noDest (runVbyteDec s) = _
  rw [runVbyteDec_eq_andThen s hcheck, h, andThen_error, finish_raise_unwritten hw]

theorem exec_cmdVbyteDec_of_wraps {s : State} (hw : s.wrote = false) (h : 2 ^ 32 < s.sa.toNat + s.sl.toNat) :
    exec .cmdVbyteDec s = .next (failedUnwritten s .addrRange 1) := by
  have hcheck : vbyteDecChecks s = some (.addrRange, 1) := if_pos (rangeWraps_iff.mpr h)
  have hrun : runVbyteDec s = .error (.raise s .addrRange 1) := by simp only [runVbyteDec, hcheck]
  change finish noDest (runVbyteDec s) = _
  rw [hrun, finish_raise_unwritten hw]

/-- Settles O27: the range's check, and the decoder's three ways to find no trailer. -/
theorem vbyteDecErrors : Obligations.VbyteDecErrors := by
  refine fun s hw => ⟨exec_cmdVbyteDec_of_wraps hw, fun hex hr => ⟨fun hlen hlow => ?_, fun hlen hlow => ?_,
    fun t ht hv => exec_cmdVbyteDec_of_error hw hex (vbyteDec_large ht hex hr hv)⟩⟩
  · exact exec_cmdVbyteDec_of_error hw hex (vbyteDec_unterminated ⟨hex,
      fun j hj => hr _ ⟨by simp only [byteSource]; omega, by simp only [byteSource]; omega⟩,
      fun j hj => hlow _ (by omega) (by omega)⟩ hlen)
  · exact exec_cmdVbyteDec_of_error hw hex (vbyteDec_short ⟨hex,
      fun j hj => hr _ ⟨by simp only [byteSource]; omega, by simp only [byteSource]; omega⟩,
      fun j hj => hlow _ (by omega)⟩ hlen)

end Sys2Proof.Machine
end

section
/-! PROOFS. What the engine does depends on no byte outside its source range (R53). -/

namespace Sys2Proof.Machine

/-! ### Two runs over two memories -/

/-- The states `s` and `t` are reached by one stretch of work, from `s₀` and from `s₀` over the memory `m`: they differ in
memory alone, the memories agree in the source range `r`, and every byte elsewhere agrees or is as it was. -/
structure SideBySide (s₀ : State) (m : Memory) (r : Range) (s t : State) : Prop where
  rest : t = { s with mem := t.mem }
  sa : s.sa = s₀.sa
  selStart : s.selStart = s₀.selStart
  wf : Memory.wf s.mem = true
  wf' : Memory.wf t.mem = true
  source : ∀ a, r.mem a → Memory.read t.mem a = Memory.read s.mem a
  bytes : ∀ a, Memory.read t.mem a = Memory.read s.mem a ∨
    (Memory.read t.mem a = Memory.read m a ∧ Memory.read s.mem a = Memory.read s₀.mem a)

/-- The states at which the two runs end: they differ in memory alone, and every byte agrees or is as it was. -/
structure EndsAlike (s₀ : State) (m : Memory) (s t : State) : Prop where
  rest : t = { s with mem := t.mem }
  bytes : ∀ a, Memory.read t.mem a = Memory.read s.mem a ∨
    (Memory.read t.mem a = Memory.read m a ∧ Memory.read s.mem a = Memory.read s₀.mem a)

section Runs
variable {s₀ : State} {m : Memory} {r : Range} {s t : State}

theorem SideBySide.start (hm : Memory.wf s₀.mem = true) (hm' : Memory.wf m = true)
    (h : ∀ a, r.mem a → Memory.read m a = Memory.read s₀.mem a) : SideBySide s₀ m r s₀ { s₀ with mem := m } :=
  ⟨rfl, rfl, rfl, hm, hm', h, fun _ => .inr ⟨rfl, rfl⟩⟩

/-- An update of the state that neither reads nor changes memory. -/
def IgnoresMemory (f : State → State) : Prop := ∀ u x, f { u with mem := x } = { f u with mem := x }

theorem IgnoresMemory.mem {f : State → State} (hf : IgnoresMemory f) (u : State) : (f u).mem = u.mem := by
  have h : (f { u with mem := u.mem }).mem = u.mem := by rw [hf]
  exact h

/-- Such an update leaves the runs side by side if it keeps the place of the source. -/
theorem SideBySide.map (h : SideBySide s₀ m r s t) {f : State → State} (hf : IgnoresMemory f)
    (hsa : (f s).sa = s.sa := by rfl) (hss : (f s).selStart = s.selStart := by rfl) :
    SideBySide s₀ m r (f s) (f t) := by
  refine ⟨?_, hsa.trans h.sa, hss.trans h.selStart, hf.mem s ▸ h.wf, hf.mem t ▸ h.wf', ?_, ?_⟩
  · rw [hf.mem t, h.rest, hf]
  · rw [hf.mem s, hf.mem t]; exact h.source
  · rw [hf.mem s, hf.mem t]; exact h.bytes

/-- An update at which the runs end. -/
theorem SideBySide.ends (h : SideBySide s₀ m r s t) {f : State → State} (hf : IgnoresMemory f) :
    EndsAlike s₀ m (f s) (f t) := by
  refine ⟨by rw [hf.mem t, h.rest, hf], ?_⟩
  rw [hf.mem s, hf.mem t]
  exact h.bytes

/-- What ignores memory is the same in both runs. -/
theorem SideBySide.eq (h : SideBySide s₀ m r s t) {α : Type} (f : State → α)
    (hf : ∀ u x, f { u with mem := x } = f u := by intros; rfl) : f t = f s := by
  rw [h.rest, hf]

theorem read_writeLE_congr {x y : Memory} (hx : Memory.wf x = true) (hy : Memory.wf y = true) {a n : Nat} (v : Nat)
    (hex : a + n ≤ 2 ^ 32) {b : Nat} (hb : a ≤ b) (hb' : b < a + n) :
    Memory.read (Memory.writeLE y a n v) b = Memory.read (Memory.writeLE x a n v) b := by
  obtain ⟨i, rfl⟩ := Nat.exists_eq_add_of_le hb
  rw [read_writeLE_inside v i hx hex (by omega), read_writeLE_inside v i hy hex (by omega)]

/-- R12: one MemWrite of the same bytes in both runs. -/
theorem SideBySide.written (h : SideBySide s₀ m r s t) {a n : Nat} (v : Nat) (hex : a + n ≤ 2 ^ 32) :
    SideBySide s₀ m r { s with mem := Memory.writeLE s.mem a n v, wrote := true }
      { t with mem := Memory.writeLE t.mem a n v, wrote := true } := by
  have hbytes : ∀ b, (b < a ∨ a + n ≤ b) ∨
      Memory.read (Memory.writeLE t.mem a n v) b = Memory.read (Memory.writeLE s.mem a n v) b := fun b => by
    by_cases hb : a ≤ b ∧ b < a + n
    · exact .inr (read_writeLE_congr h.wf h.wf' v hex hb.1 hb.2)
    · exact .inl (by omega)
  refine ⟨by rw [h.rest], h.sa, h.selStart, writeLE_wf v h.wf hex, writeLE_wf v h.wf' hex, fun b hb => ?_, fun b => ?_⟩
  · rcases hbytes b with hout | heq
    · simp only [read_writeLE_outside _ _ hout, h.source b hb]
    · exact heq
  · rcases hbytes b with hout | heq
    · simp only [read_writeLE_outside _ _ hout]
      exact h.bytes b
    · exact .inl heq

theorem read_scrambleRange_above (x : Memory) (ctr : Nat) {d : Range} {a : Nat} (h : 2 ^ 32 ≤ a) :
    Memory.read (Memory.scrambleRange x ctr d) a = Memory.read x a := by
  unfold Memory.scrambleRange
  exact read_scramble_outside ctr x (by omega)

/-- R155: one error completion in both runs. -/
theorem SideBySide.raises (h : SideBySide s₀ m r s t) (d : Range) (e : ErrCode) (info : Nat) :
    EndsAlike s₀ m (raiseError s d e info) (raiseError t d e info) := by
  have hctr := h.eq State.freeCtr
  have hwrote := h.eq State.wrote
  refine ⟨?_, fun a => ?_⟩
  · rw [h.rest]; rfl
  · rw [raiseError_mem, raiseError_mem, hctr, hwrote]
    split
    · by_cases hin : d.mem a ∧ a < 2 ^ 32
      · rw [read_scrambleRange_inside h.wf _ hin.1 hin.2, read_scrambleRange_inside h.wf' _ hin.1 hin.2]
        exact .inl rfl
      · have hkept : ∀ x : Memory, Memory.read (Memory.scrambleRange x s.freeCtr d) a = Memory.read x a := fun x => by
          by_cases hd : d.mem a
          · exact read_scrambleRange_above x _ (not_lt.mp fun hlt => hin ⟨hd, hlt⟩)
          · exact read_scrambleRange_outside x _ hd
        rw [hkept, hkept]
        exact h.bytes a
    · exact h.bytes a

theorem SideBySide.finish (d : State → Range) (hd : ∀ u x, d { u with mem := x } = d u) {x y : Res State}
    (h : ResRel (EndsAlike s₀ m) (SideBySide s₀ m r) x y) : OutcomeRel (EndsAlike s₀ m) (finish d x) (finish d y) := by
  cases h with
  | ok hst => exact .next hst
  | raise e info hst =>
    simp only [finish_raise, hst.eq d hd]
    exact .next (hst.raises _ e info)
  | fault f => exact .fault f

/-! ### Accesses -/

/-- Two runs of a piece of work that answers with a value: the same value, the runs still side by side. -/
abbrev SameAnswer (s₀ : State) (m : Memory) (r : Range) {α : Type} (x y : Res α) : Prop :=
  ResRel Eq (SideBySide s₀ m r) x y

/-- Two runs of a piece of work that changes the state: the runs still side by side. -/
abbrev SameWork (s₀ : State) (m : Memory) (r : Range) (x y : Res State) : Prop :=
  ResRel (SideBySide s₀ m r) (SideBySide s₀ m r) x y

/-- R156: one access in both runs. -/
theorem SideBySide.access (h : SideBySide s₀ m r s t) (a n : Nat) :
    ResRel (fun _ _ => a + n ≤ 2 ^ 32) (SideBySide s₀ m r) (access s a n) (access t a n) := by
  unfold Machine.access
  rw [h.eq State.params]
  split
  · exact .fault _
  · split
    · exact .raise _ _ h
    · exact .ok (by omega)

theorem SideBySide.memRead (h : SideBySide s₀ m r s t) {a n : Nat} (hr : ∀ b, a ≤ b → b < a + n → r.mem b) :
    SameAnswer s₀ m r (memRead s a n) (memRead t a n) := by
  rw [memRead_eq_andThen, memRead_eq_andThen, readLE_congr fun b h1 h2 => h.source b (hr b h1 h2)]
  exact (h.access a n).andThen fun _ _ _ => .ok rfl

theorem SideBySide.memWrite (h : SideBySide s₀ m r s t) (a n v : Nat) :
    ResRel (fun u u' => SideBySide s₀ m r u u' ∧ u.sa = s.sa ∧ u.pp = s.pp) (SideBySide s₀ m r)
      (memWrite s a n v) (memWrite t a n v) := by
  rw [memWrite_eq_andThen, memWrite_eq_andThen]
  exact (h.access a n).andThen fun _ _ hex => .ok ⟨h.written v hex, rfl, rfl⟩

theorem SideBySide.readWords (h : SideBySide s₀ m r s t) : ∀ {k a : Nat}, (∀ b, a ≤ b → b < a + 4 * k → r.mem b) →
    SameAnswer s₀ m r (readWords s a k) (readWords t a k)
  | 0, _, _ => .ok rfl
  | k + 1, a, hr => by
    rw [readWords_succ, readWords_succ]
    exact (h.memRead fun b h1 h2 => hr b h1 (by omega)).andThen_eq fun _ =>
      (h.readWords fun b h1 h2 => hr b (by omega) (by omega)).andThen_eq fun _ => .ok rfl

theorem SideBySide.writeAll (n : Nat) : ∀ (vs : List Nat) {s t : State} (a : Nat), SideBySide s₀ m r s t →
    SameWork s₀ m r (writeAll n s a vs) (writeAll n t a vs)
  | [], _, _, _, h => .ok h
  | v :: vs, s, t, a, h => by
    rw [writeAll_cons, writeAll_cons]
    exact (h.memWrite a n v).andThen fun _ _ hu => SideBySide.writeAll n vs (a + n) hu.1

/-! ### Commands -/

theorem SideBySide.vbyteScan (h : SideBySide s₀ m r s t) {base : Nat} : ∀ {left i acc n b : Nat},
    (∀ a, base ≤ a → a < base + i → r.mem a) →
    SameAnswer s₀ m r (vbyteScan s base left i acc n b) (vbyteScan t base left i acc n b)
  | 0, i, acc, n, b, _ => by
    unfold Machine.vbyteScan
    split
    · exact .ok rfl
    · exact .raise _ _ h
  | left + 1, i, acc, n, b, hr => by
    rw [vbyteScan_succ, vbyteScan_succ]
    split
    · exact .ok rfl
    · split
      · exact .raise _ _ h
      · exact (h.memRead fun a h1 h2 => hr a (by omega) (by omega)).andThen_eq fun _ =>
          h.vbyteScan fun a h1 h2 => hr a h1 (by omega)

theorem SideBySide.vbyteDec (h : SideBySide s₀ m r s t) {base len : Nat}
    (hr : ∀ a, base ≤ a → a < base + len → r.mem a) : SameAnswer s₀ m r (vbyteDec s base len) (vbyteDec t base len) := by
  rw [vbyteDec_eq_andThen, vbyteDec_eq_andThen]
  split
  · exact .raise _ _ h
  · refine (h.memRead fun a h1 h2 => hr a (by omega) (by omega)).andThen_eq fun b =>
      (h.vbyteScan fun a h1 h2 => hr a h1 (by omega)).andThen_eq fun x => ?_
    split
    · exact .raise _ _ h
    · exact .ok rfl

theorem SideBySide.runVbyteDec (h : SideBySide s₀ m (byteSource s) s t) :
    ResRel (EndsAlike s₀ m) (SideBySide s₀ m (byteSource s)) (runVbyteDec s) (runVbyteDec t) := by
  have hchecks := h.eq vbyteDecChecks
  cases hc : vbyteDecChecks s with
  | some x =>
    simp only [Machine.runVbyteDec, hchecks, hc]
    exact .raise _ _ h
  | none =>
    rw [runVbyteDec_eq_andThen s hc, runVbyteDec_eq_andThen t (hchecks.trans hc), h.eq State.sa, h.eq State.sl]
    exact (h.vbyteDec fun a h1 h2 => ⟨h1, h2⟩).andThen_eq fun x =>
      .ok (h.ends (f := fun u => complete u x.1 x.2) fun _ _ => rfl)

theorem SideBySide.planEncode (h : SideBySide s₀ m (wordSource s) s t) :
    SameAnswer s₀ m (wordSource s) (planEncode s) (planEncode t) := by
  have hchecks := h.eq encodeChecks
  cases hc : encodeChecks s with
  | some x =>
    simp only [Machine.planEncode, hchecks, hc]
    exact .raise _ _ h
  | none =>
    rw [planEncode_eq_andThen s hc, planEncode_eq_andThen t (hchecks.trans hc), h.eq State.params, h.eq State.sa,
      h.eq State.sl, h.eq State.se, h.eq State.dl]
    refine (h.readWords fun a h1 h2 => ⟨h1, h2⟩).andThen_eq fun src => ?_
    cases encodeBuffer s.params.promoteScope s.se src with
    | error p => exact .raise _ _ h
    | ok x =>
      dsimp only
      split
      · exact .raise _ _ (h.map (f := fun u => withEncodeScratch u x) fun _ _ => rfl)
      · exact .ok rfl

theorem SideBySide.runEncode (h : SideBySide s₀ m (wordSource s) s t) :
    ResRel (EndsAlike s₀ m) (SideBySide s₀ m (wordSource s)) (runEncode s) (runEncode t) := by
  rw [runEncode_eq_andThen, runEncode_eq_andThen, h.eq State.da]
  exact h.planEncode.andThen_eq fun x =>
    (SideBySide.writeAll 1 _ _ (h.map (f := fun u => withEncodeScratch u x) fun _ _ => rfl)).andThen fun _ _ hu =>
      .ok (hu.ends (f := fun u => complete u (x.bytes.length / 4) x.payload.length) fun _ _ => rfl)

theorem endIfDone_withMem (s : State) (x : Memory) : endIfDone { s with mem := x } = { endIfDone s with mem := x } := by
  unfold endIfDone
  split <;> rfl

theorem SideBySide.runDecode (h : SideBySide s₀ m (wordSource s) s t) :
    ResRel (EndsAlike s₀ m) (SideBySide s₀ m (wordSource s)) (runDecode s) (runDecode t) := by
  have hchecks := h.eq decodeChecks
  cases hc : decodeChecks s with
  | some x =>
    simp only [Machine.runDecode, hchecks, hc]
    exact .raise _ _ h
  | none =>
    rw [runDecode_eq_andThen s hc, runDecode_eq_andThen t (hchecks.trans hc), h.eq State.sa, h.eq State.sl]
    refine (h.vbyteDec fun a h1 h2 => ⟨h1, h2⟩).andThen_eq fun x => ?_
    split
    · exact .raise _ _ h
    · split
      · exact .raise _ _ h
      · exact .ok (h.ends (f := fun u => endIfDone (enterUnpack u x.1 x.2)) fun u y =>
          endIfDone_withMem (enterUnpack u x.1 x.2) y)

/-! ### Selectors -/

theorem SideBySide.readColumn (h : SideBySide s₀ m r s t) {base units l : Nat} (hu : units = 1 ∨ units = 2) (hl : l < 4)
    (hr : ∀ a, base ≤ a → a < base + 16 * units → r.mem a) :
    SameAnswer s₀ m r (readColumn s base units l) (readColumn t base units l) := by
  rw [readColumn_eq_andThen, readColumn_eq_andThen]
  refine (h.memRead fun a h1 h2 => hr a (by omega) (by omega)).andThen_eq fun lo => ?_
  split
  · exact (h.memRead fun a h1 h2 => hr a (by omega) (by omega)).andThen_eq fun _ => .ok rfl
  · exact .ok rfl

theorem SideBySide.readColumns (h : SideBySide s₀ m r s t) {base units : Nat} (hu : units = 1 ∨ units = 2)
    (hr : ∀ a, base ≤ a → a < base + 16 * units → r.mem a) : ∀ {k l : Nat}, l + k ≤ 4 →
    SameAnswer s₀ m r (readColumns s base units l k) (readColumns t base units l k)
  | 0, _, _ => .ok rfl
  | k + 1, l, hl => by
    rw [readColumns_succ, readColumns_succ]
    exact (h.readColumn hu (by omega) hr).andThen_eq fun _ =>
      (h.readColumns hu hr (by omega)).andThen_eq fun _ => .ok rfl

theorem SideBySide.copyDirect {bytes : Nat} : ∀ {k j : Nat} {s t : State}, SideBySide s₀ m r s t →
    (∀ a, s.sa.toNat + s.pp ≤ a → a < s.sa.toNat + s.pp + bytes * (j + k) → r.mem a) →
    SameWork s₀ m r (copyDirect bytes j k s) (copyDirect bytes j k t)
  | 0, _, _, _, h, _ => .ok h
  | k + 1, j, s, t, h, hr => by
    have hj : bytes * j + bytes ≤ bytes * (j + (k + 1)) := by
      rw [← Nat.mul_succ]; exact Nat.mul_le_mul_left _ (by omega)
    rw [copyDirect_succ, copyDirect_succ, h.eq State.sa, h.eq State.da, h.eq State.pp, h.eq State.oc]
    refine (h.memRead fun a h1 h2 => hr a (by omega) (by omega)).andThen_eq fun x =>
      (h.memWrite _ _ x).andThen fun u u' hu => SideBySide.copyDirect hu.1 ?_
    rw [hu.2.1, hu.2.2, show j + 1 + k = j + (k + 1) by omega]
    exact hr

/-- R119: a block's reads lie below the selector start. -/
theorem SideBySide.unpackBlock (h : SideBySide s₀ m r s t)
    (hr : ∀ a, s₀.sa.toNat ≤ a → a < s₀.sa.toNat + s₀.selStart → r.mem a) (w : Width) (n : Nat) :
    SameWork s₀ m r (unpackBlock w n s) (unpackBlock w n t) := by
  have hpayload : ∀ {k}, ¬ s.selStart < s.pp + k →
      ∀ a, s.sa.toNat + s.pp ≤ a → a < s.sa.toNat + s.pp + k → r.mem a := fun hk a h1 h2 => by
    rw [h.selStart] at hk
    rw [h.sa] at h1 h2
    exact hr a (by omega) (by omega)
  have hpaid : ∀ {u u' : State} (k : Nat), SideBySide s₀ m r u u' →
      SideBySide s₀ m r { u with pp := k } { u' with pp := k } := fun k hu =>
    hu.map (f := fun u => { u with pp := k }) fun _ _ => rfl
  cases hk : w.kind with
  | zero =>
    simp only [Machine.unpackBlock, hk, h.eq State.da, h.eq State.oc]
    exact SideBySide.writeAll 4 _ _ h
  | packed units =>
    rw [unpackBlock_packed_eq hk, unpackBlock_packed_eq hk, h.eq State.sa, h.eq State.da, h.eq State.selStart,
      h.eq State.pp, h.eq State.oc]
    split
    case isTrue => exact .raise _ _ h
    case isFalse hfit =>
      rw [blockBytes_packed hk] at hfit
      exact (h.readColumns (kind_units hk) (hpayload hfit) (by omega)).andThen_eq fun cols =>
        (SideBySide.writeAll 4 _ _ h).andThen fun _ _ hu => .ok (hpaid _ hu)
  | direct bytes =>
    rw [unpackBlock_direct_eq hk, unpackBlock_direct_eq hk, h.eq State.selStart, h.eq State.pp]
    split
    case isTrue => exact .raise _ _ h
    case isFalse hfit =>
      exact (SideBySide.copyDirect h (by rw [Nat.zero_add]; exact hpayload hfit)).andThen fun _ _ hu => .ok (hpaid _ hu)

theorem SideBySide.unpackBlocks (hr : ∀ a, s₀.sa.toNat ≤ a → a < s₀.sa.toNat + s₀.selStart → r.mem a) (w : Width) :
    ∀ (c : Nat) {s t : State}, SideBySide s₀ m r s t → SameWork s₀ m r (unpackBlocks w c s) (unpackBlocks w c t)
  | 0, _, _, h => .ok h
  | c + 1, s, t, h => by
    rw [unpackBlocks_succ, unpackBlocks_succ, h.eq State.dl, h.eq State.oc]
    split
    · exact .ok h
    · exact (h.unpackBlock hr w _).andThen fun _ _ hu => SideBySide.unpackBlocks hr w c
        (hu.map (f := fun u => { u with oc := s.oc + min w.blockInts (s.dl.toNat - s.oc) }) fun _ _ => rfl)

theorem SideBySide.runSelector (h : SideBySide s₀ m r s t)
    (hr : ∀ a, s₀.sa.toNat ≤ a → a < s₀.sa.toNat + s₀.selStart → r.mem a) (w : Width) (count : Nat) :
    ResRel (EndsAlike s₀ m) (SideBySide s₀ m r) (runSelector w count s) (runSelector w count t) := by
  rw [runSelector_eq_andThen, runSelector_eq_andThen]
  exact (SideBySide.unpackBlocks hr w count h).andThen fun _ _ hu =>
    .ok (hu.ends (f := fun u => endIfDone { u with sc := u.sc + 1 }) fun u x =>
      endIfDone_withMem { u with sc := u.sc + 1 } x)

end Runs

/-- R53: an instruction over two memories that agree in its source range ends alike. -/
theorem exec_endsAlike {i : Instr} {s : State} {m : Memory} (hm : Memory.wf s.mem = true) (hm' : Memory.wf m = true)
    (hss : s.selStart ≤ 4 * s.sl.toNat)
    (h : ∀ a, (if i = .cmdVbyteDec then byteSource s else wordSource s).mem a → Memory.read m a = Memory.read s.mem a) :
    OutcomeRel (EndsAlike s m) (exec i s) (exec i { s with mem := m }) := by
  have hword : i ≠ .cmdVbyteDec → SideBySide s m (wordSource s) s { s with mem := m } := fun hi => by
    rw [if_neg hi] at h
    exact .start hm hm' h
  have hselector : i ≠ .cmdVbyteDec → ∀ w count,
      OutcomeRel (EndsAlike s m) (execSelector w count s) (execSelector w count { s with mem := m }) := fun hi w count =>
    SideBySide.finish decodeDest (fun _ _ => rfl)
      ((hword hi).runSelector (fun a h1 h2 => mem_wordSource.mpr (by omega)) w count)
  cases i with
  | cmdEncode => exact SideBySide.finish encodeDest (fun _ _ => rfl) (hword (by decide)).runEncode
  | cmdDecode => exact SideBySide.finish decodeDest (fun _ _ => rfl) (hword (by decide)).runDecode
  | cmdClassify => exact .next ((hword (by decide)).ends (f := fun u => complete u _ _) fun _ _ => rfl)
  | cmdVbyteEnc => exact .next ((hword (by decide)).ends (f := fun u => complete u _ _) fun _ _ => rfl)
  | cmdVbyteDec =>
    rw [if_pos rfl] at h
    exact SideBySide.finish noDest (fun _ _ => rfl) (SideBySide.start hm hm' h).runVbyteDec
  | selW0 c | selW1 c | selW2 c | selW3 c | selW4 c | selW5 c | selW6 c | selW7 c | selW8 c | selW9 c | selW10 c
  | selW12 c | selW16 c | selW21 c | selW32 c => exact hselector (by simp) _ c

/-- Settles O55: the two runs stay side by side to their end. -/
theorem engineReadsOnlyItsSource : Obligations.EngineReadsOnlyItsSource := by
  intro i s m hm hm' hss h
  have hends := exec_endsAlike hm hm' hss h
  refine ⟨(OutcomeRel.mapNext_eq (hends.mono fun hst => ?_)).symm, fun t u ht hu a => ?_⟩
  · rw [hst.rest]
    rfl
  · rw [ht, hu] at hends
    cases hends with
    | next hst => exact hst.bytes a

end Sys2Proof.Machine
end

section
/-! PROOFS. The accesses of a command's work, in order: all of them answer, or the first that meets a bus error ends it
(R115, R149, R156). -/

namespace Sys2Proof.Machine

/-! ### Lists of accesses -/

/-- R156: no byte of the access answers with a bus error. -/
def Access.Answers (p : Params) (y : Access) : Prop := ∀ i, i < y.size → busErrAt p (y.addr + i) = false

/-- R44: the accesses reach no address past the top of the address space. -/
def AccessesExist (l : List Access) : Prop := ∀ y ∈ l, y.addr + y.size ≤ 2 ^ 32

theorem accessesExist_append {l l' : List Access} : AccessesExist (l ++ l') ↔ AccessesExist l ∧ AccessesExist l' :=
  List.forall_mem_append

theorem accessesExist_cons {y : Access} {l : List Access} :
    AccessesExist (y :: l) ↔ y.addr + y.size ≤ 2 ^ 32 ∧ AccessesExist l :=
  List.forall_mem_cons

theorem FirstBusError.lt_length {p : Params} {l : List Access} {k : Nat} {y : Access} (h : FirstBusError p l k y) :
    k < l.length :=
  (List.getElem?_eq_some_iff.mp h.here).1

theorem FirstBusError.append_left {p : Params} {l : List Access} {k : Nat} {y : Access} (h : FirstBusError p l k y)
    (l' : List Access) : FirstBusError p (l ++ l') k y where
  here := by rw [List.getElem?_append_left h.lt_length]; exact h.here
  fails := h.fails
  before j z hj hz := by
    rw [List.getElem?_append_left (hj.trans h.lt_length)] at hz
    exact h.before j z hj hz

theorem FirstBusError.append_right {p : Params} {l l' : List Access} {k : Nat} {y : Access}
    (hl : ∀ z ∈ l, z.Answers p) (h : FirstBusError p l' k y) : FirstBusError p (l ++ l') (l.length + k) y where
  here := by rw [List.getElem?_append_right (by omega), Nat.add_sub_cancel_left]; exact h.here
  fails := h.fails
  before j z hj hz := by
    by_cases hjl : j < l.length
    · rw [List.getElem?_append_left hjl] at hz
      exact hl z (List.mem_of_getElem? hz)
    · rw [List.getElem?_append_right (by omega)] at hz
      exact h.before _ z (by omega) hz

theorem FirstBusError.not_answers {p : Params} {l : List Access} {k : Nat} {y : Access} (h : FirstBusError p l k y) :
    ¬ ∀ z ∈ l, z.Answers p := fun hall => by
  obtain ⟨i, hi, hbus⟩ := h.fails
  rw [hall y (List.mem_of_getElem? h.here) i hi] at hbus
  cases hbus

/-- R156: there is one first bus error. -/
theorem FirstBusError.unique {p : Params} {l : List Access} {k k' : Nat} {y y' : Access} (h : FirstBusError p l k y)
    (h' : FirstBusError p l k' y') : k = k' ∧ y = y' := by
  have hle : ∀ {j j' : Nat} {z z' : Access}, FirstBusError p l j z → FirstBusError p l j' z' → j' ≤ j := fun h h' => by
    by_contra hlt
    obtain ⟨i, hi, hbus⟩ := h.fails
    rw [h'.before _ _ (not_le.mp hlt) h.here i hi] at hbus
    cases hbus
  obtain rfl := le_antisymm (hle h' h) (hle h h')
  exact ⟨rfl, Option.some.inj (h.here.symm.trans h'.here)⟩

/-! ### Work that performs a list of accesses -/

/-- What a stretch of work leaves that performed the accesses `l`: memory, unchanged while no MemWrite was performed, and
the cursors can differ. -/
structure Touched (s : State) (l : List Access) (u : State) : Prop where
  rest : u = { s with mem := u.mem, wrote := s.wrote || l.any Access.write, pp := u.pp, oc := u.oc }
  unwritten : u.wrote = false → u.mem = s.mem

/-- R156, R157: a piece of work performs the accesses `l` in order. All of them answer, and it ends in the state that
`after` gives, or the first that meets a bus error ends it with BUS_ERROR and that access's address. -/
inductive Performs {α : Type} (s : State) (l : List Access) (after : α → State) : Res α → Prop where
  | answers {a : α} : (∀ y ∈ l, y.Answers s.params) → Touched s l (after a) → Performs s l after (.ok a)
  | fails {k : Nat} {y : Access} {u : State} : FirstBusError s.params l k y → Touched s (l.take k) u →
      Performs s l after (.error (.raise u .busError y.addr))

theorem Touched.params {s u : State} {l : List Access} (h : Touched s l u) : u.params = s.params := by rw [h.rest]

theorem Touched.wrote {s u : State} {l : List Access} (h : Touched s l u) :
    u.wrote = (s.wrote || l.any Access.write) := by rw [h.rest]

/-- Work that accesses nothing and moves the cursors at most. -/
theorem Touched.cursors (s : State) (pp oc : Nat) : Touched s [] { s with pp := pp, oc := oc } :=
  ⟨by simp, fun _ => rfl⟩

theorem Touched.refl (s : State) : Touched s [] s := .cursors s s.pp s.oc

theorem Touched.trans {s u v : State} {l l' : List Access} (h : Touched s l u) (h' : Touched u l' v) :
    Touched s (l ++ l') v := by
  refine ⟨?_, fun hv => ?_⟩
  · have hrest := h'.rest
    rw [h.rest] at hrest
    rw [List.any_append, ← Bool.or_assoc]
    exact hrest
  · have hu : u.wrote = false := by
      rw [h'.wrote] at hv
      exact (Bool.or_eq_false_iff.mp hv).1
    exact (h'.unwritten hv).trans (h.unwritten hu)

section Performs
variable {α β : Type} {s : State} {l l' : List Access} {after : α → State} {after' : β → State}

theorem Performs.answer {a : α} (h : Touched s [] (after a)) : Performs s [] after (.ok a) :=
  .answers (fun _ hy => by cases hy) h

/-- A piece of work, then one that goes on from where it ended. -/
theorem Performs.andThen {x : Res α} {f : α → Res β} (h : Performs s l after x)
    (hf : ∀ a, x = .ok a → Performs (after a) l' after' (f a)) : Performs s (l ++ l') after' (x.andThen f) := by
  cases h with
  | @answers a hall ha =>
    have hfa := hf a rfl
    rw [andThen_ok]
    generalize f a = y at hfa
    cases hfa with
    | @answers b hall' hb =>
      rw [ha.params] at hall'
      exact .answers (List.forall_mem_append.mpr ⟨hall, hall'⟩) (ha.trans hb)
    | @fails k y u hfirst hu =>
      rw [ha.params] at hfirst
      refine .fails (.append_right hall hfirst) ?_
      rw [List.take_length_add_append]
      exact ha.trans hu
  | @fails k y u hfirst hu =>
    rw [andThen_error]
    refine .fails (hfirst.append_left l') ?_
    rw [List.take_append_of_le_length hfirst.lt_length.le]
    exact hu

/-- A piece of work, then an answer without an access. -/
theorem Performs.andThen_answer {x : Res α} {f : α → β} (h : Performs s l after x)
    (hf : ∀ a, Touched (after a) [] (after' (f a))) : Performs s l after' (x.andThen fun a => .ok (f a)) := by
  have := h.andThen (f := fun a => .ok (f a)) fun a _ => .answer (hf a)
  rwa [List.append_nil] at this

/-- R156: work whose first bus error is at `y` ends there. -/
theorem Performs.error {x : Res α} (h : Performs s l after x) {k : Nat} {y : Access}
    (hy : FirstBusError s.params l k y) : ∃ u, x = .error (.raise u .busError y.addr) ∧ Touched s (l.take k) u := by
  cases h with
  | answers hall => exact absurd hall hy.not_answers
  | @fails k' y' u hfirst hu =>
    obtain ⟨rfl, rfl⟩ := hy.unique hfirst
    exact ⟨u, rfl, hu⟩

/-- Work all of whose accesses answer ends with an answer. -/
theorem Performs.ok {x : Res α} (h : Performs s l after x) (hall : ∀ y ∈ l, y.Answers s.params) :
    ∃ a, x = .ok a ∧ Touched s l (after a) := by
  cases h with
  | @answers a _ ha => exact ⟨a, rfl, ha⟩
  | fails hfirst => exact absurd hall hfirst.not_answers

end Performs

/-! ### Reads and writes -/

/-- R156: work that is one access: it answers where the access completes, and ends where the access ends. -/
theorem performs_access {s : State} {a n : Nat} {write : Bool} {α : Type} {after : α → State} {x : Res α} {b : α}
    (hex : a + n ≤ 2 ^ 32) (hok : access s a n = .ok () → x = .ok b) (hb : Touched s [⟨a, n, write⟩] (after b))
    (herr : access s a n = .error (.raise s .busError a) → x = .error (.raise s .busError a)) :
    Performs s [⟨a, n, write⟩] after x := by
  by_cases hall : ∀ i, i < n → busErrAt s.params (a + i) = false
  · rw [hok (access_ok_iff.mpr ⟨hex, hall⟩)]
    exact .answers (List.forall_mem_singleton.mpr hall) hb
  · have hbus : ∃ i, i < n ∧ busErrAt s.params (a + i) = true := by
      simpa only [not_forall, Bool.not_eq_false, exists_prop] using hall
    rw [herr (access_busError hex hbus)]
    exact .fails (k := 0) (y := ⟨a, n, write⟩) ⟨rfl, hbus, fun j _ hj => absurd hj (Nat.not_lt_zero j)⟩ (.refl s)

theorem performs_memRead {s : State} {a n : Nat} (hex : a + n ≤ 2 ^ 32) :
    Performs s [⟨a, n, false⟩] (fun _ => s) (memRead s a n) :=
  performs_access hex memRead_of_access ⟨by simp, fun _ => rfl⟩
    fun h => by rw [memRead_eq_andThen, h, andThen_error]

theorem performs_memWrite {s : State} {a n v : Nat} (hex : a + n ≤ 2 ^ 32) :
    Performs s [⟨a, n, true⟩] id (memWrite s a n v) :=
  performs_access hex (memWrite_of_access v) ⟨by simp, fun h => by cases h⟩
    fun h => by rw [memWrite_eq_andThen, h, andThen_error]

/-- `k` accesses of `n` bytes, one after the other from `a` up. -/
def consecutive (n : Nat) (write : Bool) (a k : Nat) : List Access := (List.range k).map fun i => ⟨a + n * i, n, write⟩

theorem consecutive_succ (n : Nat) (write : Bool) (a k : Nat) :
    consecutive n write a (k + 1) = ⟨a, n, write⟩ :: consecutive n write (a + n) k := by
  simp only [consecutive, List.range_succ_eq_map, List.map_cons, List.map_map, Nat.mul_zero, Nat.add_zero,
    List.cons.injEq, true_and]
  exact List.map_congr_left fun i _ => by simp only [Function.comp_apply, Nat.mul_succ]; congr 1; omega

/-- R81: word reads. -/
theorem performs_readWords {s : State} : ∀ {k a : Nat}, AccessesExist (consecutive 4 false a k) →
    Performs s (consecutive 4 false a k) (fun _ => s) (readWords s a k)
  | 0, _, _ => .answer (.refl s)
  | k + 1, a, h => by
    rw [consecutive_succ, accessesExist_cons] at h
    rw [consecutive_succ, readWords_succ]
    exact (performs_memRead h.1).andThen fun _ _ => (performs_readWords h.2).andThen_answer fun _ => .refl s

theorem performs_writeAll {n : Nat} : ∀ {vs : List Nat} {s : State} {a : Nat},
    AccessesExist (consecutive n true a vs.length) →
    Performs s (consecutive n true a vs.length) id (writeAll n s a vs)
  | [], s, _, _ => .answer (.refl s)
  | v :: vs, s, a, h => by
    rw [List.length_cons, consecutive_succ, accessesExist_cons] at h
    rw [List.length_cons, consecutive_succ, writeAll_cons]
    exact (performs_memWrite h.1).andThen fun _ _ => performs_writeAll h.2

/-! ### Blocks -/

/-- R70: the reads of a column of a packed block. -/
def columnReads (base units l : Nat) : List Access := (List.range units).map fun h => ⟨base + 16 * h + 4 * l, 4, false⟩

theorem performs_readColumn {s : State} {base units l : Nat} (hu : units = 1 ∨ units = 2)
    (h : AccessesExist (columnReads base units l)) :
    Performs s (columnReads base units l) (fun _ => s) (readColumn s base units l) := by
  rw [readColumn_eq_andThen]
  rcases hu with rfl | rfl
  · have hreads : columnReads base 1 l = [⟨base + 4 * l, 4, false⟩] := rfl
    rw [hreads] at h ⊢
    exact (performs_memRead (accessesExist_cons.mp h).1).andThen_answer fun _ => .refl s
  · have hreads : columnReads base 2 l = [⟨base + 4 * l, 4, false⟩] ++ [⟨base + 16 + 4 * l, 4, false⟩] := rfl
    rw [hreads, accessesExist_append] at h
    rw [hreads]
    exact (performs_memRead (accessesExist_cons.mp h.1).1).andThen fun _ _ =>
      (performs_memRead (accessesExist_cons.mp h.2).1).andThen_answer fun _ => .refl s

theorem performs_readColumns {s : State} {base units : Nat} (hu : units = 1 ∨ units = 2) : ∀ {k l : Nat},
    AccessesExist ((List.range' l k).flatMap (columnReads base units)) →
    Performs s ((List.range' l k).flatMap (columnReads base units)) (fun _ => s) (readColumns s base units l k)
  | 0, _, _ => .answer (.refl s)
  | k + 1, l, h => by
    rw [List.range'_succ, List.flatMap_cons, accessesExist_append] at h
    rw [List.range'_succ, List.flatMap_cons, readColumns_succ]
    exact (performs_readColumn hu h.1).andThen fun _ _ => (performs_readColumns hu h.2).andThen_answer fun _ => .refl s

/-- R71: the accesses of value `j` of a direct block. -/
def copyAccesses (bytes src dst j : Nat) : List Access := [⟨src + bytes * j, bytes, false⟩, ⟨dst + 4 * j, 4, true⟩]

theorem performs_copyDirect {bytes : Nat} : ∀ {k j : Nat} {s : State},
    AccessesExist ((List.range' j k).flatMap (copyAccesses bytes (s.sa.toNat + s.pp) (s.da.toNat + 4 * s.oc))) →
    Performs s ((List.range' j k).flatMap (copyAccesses bytes (s.sa.toNat + s.pp) (s.da.toNat + 4 * s.oc))) id
      (copyDirect bytes j k s)
  | 0, _, s, _ => .answer (.refl s)
  | k + 1, j, s, h => by
    rw [List.range'_succ, List.flatMap_cons, copyAccesses, List.cons_append, List.cons_append, List.nil_append,
      accessesExist_cons, accessesExist_cons] at h
    obtain ⟨hread, hwrite, hrest⟩ := h
    rw [List.range'_succ, List.flatMap_cons, copyAccesses, List.cons_append, List.cons_append, List.nil_append,
      copyDirect_succ, Nat.mul_add, ← Nat.add_assoc]
    refine (performs_memRead hread).andThen fun x _ => (performs_memWrite hwrite).andThen fun u hu => ?_
    obtain ⟨rfl, -⟩ := memWrite_ok hu
    exact performs_copyDirect (s := { s with mem := _, wrote := true }) hrest

/-- R123 to R137: a block whose payload lies below the selector start performs its accesses. -/
theorem performs_unpackBlock {w : Width} {r : Nat} {s : State}
    (hfit : w ≠ .w0 → s.pp + w.bytesFor r ≤ s.selStart)
    (h : AccessesExist (blockAccesses w r (s.sa.toNat + s.pp) (s.da.toNat + 4 * s.oc))) :
    Performs s (blockAccesses w r (s.sa.toNat + s.pp) (s.da.toNat + 4 * s.oc)) id (unpackBlock w r s) := by
  have hpaid : ∀ (u : State) (n : Nat), Touched u [] { u with pp := n } := fun u n => .cursors u n u.oc
  cases hk : w.kind with
  | zero =>
    simp only [blockAccesses, hk, unpackBlock] at h ⊢
    have := performs_writeAll (n := 4) (vs := List.replicate r 1) (s := s) (a := s.da.toNat + 4 * s.oc)
      (by rw [List.length_replicate]; exact h)
    rw [List.length_replicate] at this
    exact this
  | packed units =>
    have hw : w ≠ .w0 := by rintro rfl; simp [Width.kind] at hk
    have hfit := hfit hw
    rw [bytesFor_packed hk, ← blockBytes_packed hk] at hfit
    rw [unpackBlock_packed_eq hk, if_neg (not_lt.mpr hfit)]
    simp only [blockAccesses, hk] at h ⊢
    rw [accessesExist_append] at h
    refine (performs_readColumns (k := 4) (l := 0) (kind_units hk) h.1).andThen fun cols _ =>
      Performs.andThen_answer ?_ fun u => hpaid u _
    have := performs_writeAll (n := 4) (vs := (List.range r).map (packedField w cols)) (s := s)
      (a := s.da.toNat + 4 * s.oc) (by rw [List.length_map, List.length_range]; exact h.2)
    rw [List.length_map, List.length_range] at this
    exact this
  | direct bytes =>
    have hw : w ≠ .w0 := by rintro rfl; simp [Width.kind] at hk
    have hfit := hfit hw
    rw [bytesFor_direct hk] at hfit
    rw [unpackBlock_direct_eq hk, if_neg (not_lt.mpr hfit)]
    simp only [blockAccesses, hk, List.range_eq_range'] at h ⊢
    exact (performs_copyDirect h).andThen_answer fun u => hpaid u _

end Sys2Proof.Machine
end

section
/-! PROOFS. The accesses of a selector's blocks, and where a bus error ends each command (R115, R149, R156). -/

namespace Sys2Proof.Machine

/-! ### Selectors -/

/-- R115: the blocks of a selector. -/
def blocksOf (w : Width) (outputs : Nat) : Nat := (outputs + w.blockInts - 1) / w.blockInts

/-- R115, R116: the first block of a selector and the outputs of the blocks after it. -/
theorem selectorOutputs_succ {w : Width} {c : Nat} {s t : State} (hdl : t.dl = s.dl)
    (hoc : t.oc = s.oc + min w.blockInts (s.dl.toNat - s.oc)) :
    selectorOutputs w (c + 1) s = min w.blockInts (s.dl.toNat - s.oc) + selectorOutputs w c t := by
  have hmul : (c + 1) * w.blockInts = c * w.blockInts + w.blockInts := Nat.succ_mul _ _
  simp only [selectorOutputs, hdl, hoc, hmul]
  omega

theorem blocksOf_zero (w : Width) : blocksOf w 0 = 0 := by
  have := blockInts_pos w
  exact Nat.div_eq_of_lt (by omega)

/-- R115: a whole block before further outputs, or a cut block with none after it. -/
theorem blocksOf_add {w : Width} {k n : Nat} (hk : 0 < k) (hle : k ≤ w.blockInts) (hn : k = w.blockInts ∨ n = 0) :
    blocksOf w (k + n) = blocksOf w n + 1 := by
  have hN := blockInts_pos w
  rcases hn with rfl | rfl
  · rw [blocksOf, show w.blockInts + n + w.blockInts - 1 = n + w.blockInts - 1 + w.blockInts by omega,
      Nat.add_div_right _ (by omega)]
    rfl
  · rw [blocksOf_zero, blocksOf, show k + 0 + w.blockInts - 1 = k - 1 + w.blockInts by omega,
      Nat.add_div_right _ (by omega), Nat.div_eq_of_lt (by omega)]

theorem blockBytes_eq (w : Width) : w.bytesFor w.blockInts = w.blockBytes := by cases w <;> rfl

/-- The state after the first block of a selector: its payload consumed and its outputs counted. -/
structure AfterBlock (w : Width) (s t : State) : Prop where
  sa : t.sa = s.sa
  da : t.da = s.da
  dl : t.dl = s.dl
  selStart : t.selStart = s.selStart
  pp : t.pp = s.pp + w.bytesFor (min w.blockInts (s.dl.toNat - s.oc))
  oc : t.oc = s.oc + min w.blockInts (s.dl.toNat - s.oc)

section AfterBlock
variable {w : Width} {c : Nat} {s t : State}

/-- A block that is cut short is the last. -/
theorem AfterBlock.whole_or_last (h : AfterBlock w s t) :
    min w.blockInts (s.dl.toNat - s.oc) = w.blockInts ∨ selectorOutputs w c t = 0 := by
  simp only [selectorOutputs, h.dl, h.oc]
  omega

/-- R115: a selector's accesses are its first block's and those of the blocks after it. -/
theorem AfterBlock.selectorAccesses (h : AfterBlock w s t) (hoc : s.oc < s.dl.toNat) :
    selectorAccesses w (c + 1) s =
      blockAccesses w (min w.blockInts (s.dl.toNat - s.oc)) (s.sa.toNat + s.pp) (s.da.toNat + 4 * s.oc) ++
        selectorAccesses w c t := by
  have hN := blockInts_pos w
  have hlast := h.whole_or_last (c := c)
  have hblocks := blocksOf_add (w := w) (k := min w.blockInts (s.dl.toNat - s.oc)) (by omega) (Nat.min_le_left _ _) hlast
  rw [← selectorOutputs_succ h.dl h.oc] at hblocks
  simp only [blocksOf] at hblocks
  simp only [Machine.selectorAccesses, hblocks, List.range_succ_eq_map, List.flatMap_cons, List.flatMap_map,
    Nat.zero_mul, Nat.add_zero, List.append_cancel_left_eq]
  rcases hlast with hwhole | hnone
  · refine List.flatMap_congr fun q _ => ?_
    rw [h.sa, h.da, h.dl, h.pp, h.oc, hwhole, blockBytes_eq, Nat.succ_mul, Nat.succ_mul]
    congr 1 <;> omega
  · rw [hnone]
    have hz := blocksOf_zero w
    rw [blocksOf] at hz
    rw [hz]
    rfl

/-- R119: the payload of a selector is its first block's and that of the blocks after it. -/
theorem AfterBlock.selectorBytes (h : AfterBlock w s t) (hoc : s.oc < s.dl.toNat) :
    selectorBytes w (c + 1) s = w.bytesFor (min w.blockInts (s.dl.toNat - s.oc)) + selectorBytes w c t := by
  have hN := blockInts_pos w
  have houtputs := selectorOutputs_succ (c := c) h.dl h.oc
  have hblocks := blocksOf_add (w := w) (k := min w.blockInts (s.dl.toNat - s.oc)) (by omega) (Nat.min_le_left _ _)
    (h.whole_or_last (c := c))
  rw [← houtputs] at hblocks
  simp only [blocksOf] at hblocks
  cases hk : w.kind with
  | zero => simp [Machine.selectorBytes, Width.bytesFor, hk]
  | packed units =>
    simp only [Machine.selectorBytes, Width.bytesFor, hk, hblocks, Nat.succ_mul]
    omega
  | direct bytes => simp only [Machine.selectorBytes, Width.bytesFor, hk, houtputs, Nat.mul_comm bytes, Nat.add_mul]

end AfterBlock

theorem selectorAccesses_zero {w : Width} {c : Nat} {s : State} (h : selectorOutputs w c s = 0) :
    selectorAccesses w c s = [] := by
  have hz := blocksOf_zero w
  rw [blocksOf] at hz
  rw [selectorAccesses, h, hz]
  rfl

/-- R115: what a block that answers leaves of the cursors. -/
theorem afterBlock_of_unpackBlock {w : Width} {s u : State}
    (h : unpackBlock w (min w.blockInts (s.dl.toNat - s.oc)) s = .ok u) :
    AfterBlock w s { u with oc := s.oc + min w.blockInts (s.dl.toNat - s.oc) } := by
  rcases unpackBlock_cases w (min w.blockInts (s.dl.toNat - s.oc)) s with
    ⟨t, ht, hw, hpp, -⟩ | ⟨-, -, ht⟩ | ⟨_, _, ht, -⟩ | ⟨-, ht⟩ <;> rw [h] at ht <;> cases ht
  constructor
  case pp => exact hpp
  case oc => rfl
  all_goals rw [hw.rest]

/-- Work that goes on from moved cursors. -/
theorem Performs.of_cursors {α : Type} {s : State} {l : List Access} {after : α → State} {x : Res α} {pp oc : Nat}
    (h : Performs { s with pp := pp, oc := oc } l after x) : Performs s l after x :=
  (Performs.answer (after := id) (Touched.cursors s pp oc)).andThen (f := fun _ => x) fun _ hu => by
    cases hu
    exact h

/-- R115, R156: the blocks of a selector whose payload lies below the selector start perform its accesses. -/
theorem performs_unpackBlocks {w : Width} : ∀ {c : Nat} {s : State},
    (w ≠ .w0 → s.pp + selectorBytes w c s ≤ s.selStart) → AccessesExist (selectorAccesses w c s) →
    Performs s (selectorAccesses w c s) id (unpackBlocks w c s)
  | 0, s, _, _ => by
    rw [selectorAccesses_zero (by simp [selectorOutputs])]
    exact .answer (.refl s)
  | c + 1, s, hfit, hexist => by
    rw [unpackBlocks_succ]
    split
    case isTrue hdone =>
      rw [selectorAccesses_zero (by simp [selectorOutputs, Nat.sub_eq_zero_of_le hdone])]
      exact .answer (.refl s)
    case isFalse hmore =>
      have hmore := not_le.mp hmore
      have hstep : AfterBlock w s { s with
          pp := s.pp + w.bytesFor (min w.blockInts (s.dl.toNat - s.oc))
          oc := s.oc + min w.blockInts (s.dl.toNat - s.oc) } := ⟨rfl, rfl, rfl, rfl, rfl, rfl⟩
      have hbytes := hstep.selectorBytes (c := c) hmore
      have haccesses := hstep.selectorAccesses (c := c) hmore
      rw [haccesses, accessesExist_append] at hexist
      rw [haccesses]
      refine (performs_unpackBlock (fun hw => by have := hfit hw; omega) hexist.1).andThen fun u hu => ?_
      have hafter := afterBlock_of_unpackBlock hu
      have hrest := List.append_cancel_left ((hafter.selectorAccesses (c := c) hmore).symm.trans haccesses)
      have hbytes' := hafter.selectorBytes (c := c) hmore
      rw [← hrest] at hexist ⊢
      refine (performs_unpackBlocks (fun hw => ?_) hexist.2).of_cursors
      have hpayload := hfit hw
      have hpp := hafter.pp
      have hss := hafter.selStart
      dsimp only at hpp hss ⊢
      omega

/-- R115: the blocks of a selector, some of them and then the rest. -/
theorem unpackBlocks_add (w : Width) (d : Nat) : ∀ (c : Nat) (s : State),
    unpackBlocks w (c + d) s = (unpackBlocks w c s).andThen (unpackBlocks w d)
  | 0, s => by rw [Nat.zero_add]; rfl
  | c + 1, s => by
    rw [Nat.add_right_comm, unpackBlocks_succ, unpackBlocks_succ]
    split
    case isTrue hdone => cases d <;> simp [unpackBlocks, hdone]
    case isFalse =>
      cases unpackBlock w (min w.blockInts (s.dl.toNat - s.oc)) s with
      | error e => rfl
      | ok u => exact unpackBlocks_add w d c _

/-- R155, R156: a selector with a bus error among the accesses of its first `c` blocks ends DECODE there. -/
theorem exec_sel_busError {w : Width} {count c k : Nat} {s : State} {x : Access} (hc : c ≤ count)
    (hfit : w ≠ .w0 → s.pp + selectorBytes w c s ≤ s.selStart) (hexist : AccessesExist (selectorAccesses w c s))
    (hx : FirstBusError s.params (selectorAccesses w c s) k x) :
    ∃ u, exec (Instr.sel w count) s = .next (raiseError u (decodeDest u) .busError x.addr) ∧
      Touched s ((selectorAccesses w c s).take k) u := by
  obtain ⟨d, rfl⟩ := Nat.exists_eq_add_of_le hc
  obtain ⟨u, hu, htouched⟩ := (performs_unpackBlocks hfit hexist).error hx
  refine ⟨u, ?_, htouched⟩
  rw [exec_sel, execSelector, runSelector_eq_andThen, unpackBlocks_add, hu, andThen_error, andThen_error, finish_raise]

/-! ### Commands -/

theorem sourceReads_eq (s : State) : sourceReads s = consecutive 4 false s.sa.toNat s.sl.toNat := rfl

theorem bufferWrites_eq (s : State) (len : Nat) : bufferWrites s len = consecutive 1 true s.da.toNat len := by
  simp only [bufferWrites, consecutive, Nat.one_mul]

theorem accessesExist_consecutive {n a k : Nat} {write : Bool} (h : a + n * k ≤ 2 ^ 32) :
    AccessesExist (consecutive n write a k) := by
  intro y hy
  obtain ⟨i, hi, rfl⟩ := List.mem_map.mp hy
  have hi := List.mem_range.mp hi
  have := Nat.mul_le_mul_left n (show i + 1 ≤ k from hi)
  rw [Nat.mul_succ] at this
  simp only
  omega

/-- R156: the consecutive accesses of a range that answers all answer. -/
theorem consecutive_answers {p : Params} {n a k : Nat} {write : Bool} (h : NoBusErr p ⟨a, a + n * k⟩) :
    ∀ y ∈ consecutive n write a k, y.Answers p := by
  intro y hy i hi
  obtain ⟨j, hj, rfl⟩ := List.mem_map.mp hy
  have hj := List.mem_range.mp hj
  have := Nat.mul_le_mul_left n (show j + 1 ≤ k from hj)
  rw [Nat.mul_succ] at this
  exact h _ ⟨by simp only; omega, by simp only at hi ⊢; omega⟩

/-- R53: the source reads of an ENCODE whose source range answers give the source words. -/
theorem readWords_sourceWords {s : State} (hex : s.sa.toNat + 4 * s.sl.toNat ≤ 2 ^ 32)
    (hr : NoBusErr s.params (wordSource s)) : readWords s s.sa.toNat s.sl.toNat = .ok (sourceWords s) :=
  readWords_of_access hex fun b h1 h2 => hr b ⟨h1, h2⟩

/-- R149: the plan of an admitted ENCODE whose source range answers: its buffer, or CAPACITY. -/
theorem planEncode_of_admitted {s : State} {r : Encoded} (hadm : EncodeAdmitted s)
    (hr : NoBusErr s.params (wordSource s)) (hbuf : encodeBuffer s.params.promoteScope s.se (sourceWords s) = .ok r) :
    planEncode s = if s.dl.toNat < r.bytes.length then .error (.raise (withEncodeScratch s r) .capacity r.bytes.length)
      else .ok r := by
  rw [planEncode_eq_andThen s (encodeChecks_of_admitted hadm), readWords_sourceWords hadm.srcLegal hr, andThen_ok, hbuf]

/-- R156: an ENCODE whose source reads meet a bus error. -/
theorem exec_cmdEncode_source_busError {s : State} {k : Nat} {x : Access} (hadm : EncodeAdmitted s)
    (hw : s.wrote = false) (hx : FirstBusError s.params (sourceReads s) k x) :
    exec .cmdEncode s = .next (failedUnwritten s .busError x.addr) := by
  rw [sourceReads_eq] at hx
  obtain ⟨u, hu, -⟩ := (performs_readWords (s := s) (accessesExist_consecutive hadm.srcLegal)).error hx
  have hstate : u = s := by
    rcases readWords_error hu with ⟨b, -, -, heq⟩ | ⟨-, heq⟩ <;> cases heq
    rfl
  subst hstate
  have hrun : runEncode u = .error (.raise u .busError x.addr) := by
    rw [runEncode_eq_andThen, planEncode_eq_andThen u (encodeChecks_of_admitted hadm), hu, andThen_error, andThen_error]
  change finish encodeDest (runEncode u) = _
  rw [hrun, finish_raise_unwritten hw]

/-- R156: an ENCODE whose buffer writes meet a bus error. -/
theorem exec_cmdEncode_dest_busError {s : State} {k : Nat} {x : Access} {r : Encoded} (hadm : EncodeAdmitted s)
    (hr : NoBusErr s.params (wordSource s)) (hbuf : encodeBuffer s.params.promoteScope s.se (sourceWords s) = .ok r)
    (hfits : r.bytes.length ≤ s.dl.toNat) (hx : FirstBusError s.params (bufferWrites s r.bytes.length) k x) :
    ∃ u, exec .cmdEncode s = .next (raiseError u (encodeDest u) .busError x.addr) ∧
      Touched (withEncodeScratch s r) ((bufferWrites s r.bytes.length).take k) u := by
  have hlen : (r.bytes.map BitVec.toNat).length = r.bytes.length := List.length_map _
  have hdst := hadm.dstLegal
  rw [bufferWrites_eq, ← hlen] at hx
  obtain ⟨u, hu, htouched⟩ := (performs_writeAll (s := withEncodeScratch s r)
    (accessesExist_consecutive (by rw [hlen]; omega))).error hx
  rw [hlen, ← bufferWrites_eq] at htouched
  refine ⟨u, ?_, htouched⟩
  change finish encodeDest (runEncode s) = _
  rw [runEncode_eq_andThen, planEncode_of_admitted hadm hr hbuf, if_neg (not_lt.mpr hfits), andThen_ok, hu, andThen_error,
    finish_raise]

theorem any_write_take_bufferWrites {s : State} {len k : Nat} (hk : k < len) :
    ((bufferWrites s len).take k).any Access.write = decide (0 < k) := by
  rw [bufferWrites, ← List.map_take, List.take_range, List.any_map, Nat.min_eq_left hk.le]
  cases k with
  | zero => rfl
  | succ k => simp [List.range_succ]

/-- R156: a DECODE whose trailer scan meets a bus error. -/
theorem exec_cmdDecode_busError {s : State} {k : Nat} (hw : s.wrote = false) (hadm : DecodeAdmitted s)
    (h : ScanBusError s s.sa.toNat (4 * s.sl.toNat) k) :
    exec .cmdDecode s = .next (failedUnwritten s .busError (s.sa.toNat + (4 * s.sl.toNat - 1 - k))) := by
  change finish decodeDest (runDecode s) = _
  rw [runDecode_eq_andThen s (decodeChecks_of_admitted hadm), vbyteDec_busError hadm.srcLegal h, andThen_error,
    finish_raise_unwritten hw]

/-- R156: the law of one access. -/
theorem access_law {s : State} {a n : Nat} (v : Nat) (hex : a + n ≤ 2 ^ 32) :
    ((∀ i, i < n → busErrAt s.params (a + i) = false) →
      memRead s a n = .ok (Memory.readLE s.mem a n) ∧
      memWrite s a n v = .ok { s with mem := Memory.writeLE s.mem a n v, wrote := true }) ∧
    ((∃ i, i < n ∧ busErrAt s.params (a + i) = true) →
      memRead s a n = .error (.raise s .busError a) ∧ memWrite s a n v = .error (.raise s .busError a)) := by
  refine ⟨fun hall => ?_, fun hbus => ⟨memRead_busError hex hbus, memWrite_busError v hex hbus⟩⟩
  have hacc := access_ok_iff.mpr ⟨hex, hall⟩
  exact ⟨memRead_of_access hacc, memWrite_of_access v hacc⟩

/-- R155: an error completion of a command that touched memory leaves it as it was while no MemWrite was performed. -/
theorem Touched.raiseError_unwritten {s u : State} {l : List Access} (h : Touched s l u) (d : Range) (e : ErrCode)
    (info : Nat) (hw : u.wrote = false) : (raiseError u d e info).mem = s.mem := by
  rw [raiseError_mem, hw]
  exact h.unwritten hw

/-- Settles O49: the access law, and the first access that fails in each command and in every selector. -/
theorem busErrorsNameTheLowestAddress : Obligations.BusErrorsNameTheLowestAddress := by
  refine ⟨fun s a n v hex => access_law v hex, fun s k x hadm hw =>
    ⟨exec_cmdEncode_source_busError hadm hw, fun r hr hbuf hfits hx => ?_⟩, fun s k hw =>
    ⟨fun hex h => exec_cmdVbyteDec_of_error hw hex (vbyteDec_busError hex h), exec_cmdDecode_busError hw⟩,
    fun w count c s k x hc hfit hexist hx => ?_⟩
  · obtain ⟨u, hu, htouched⟩ := exec_cmdEncode_dest_busError hadm hr hbuf hfits hx
    have hk := hx.lt_length
    rw [bufferWrites, List.length_map, List.length_range] at hk
    have hwrote : u.wrote = decide (0 < k) := by
      rw [htouched.wrote, any_write_take_bufferWrites hk, withEncodeScratch_wrote, hw, Bool.false_or]
    refine ⟨_, hu, ?_, fun hk0 => htouched.raiseError_unwritten _ _ _ (by rw [hwrote, hk0]; rfl),
      fun a ha => (runEncode_writesOnly s).finish hu ha⟩
    rw [← hwrote, htouched.rest]
    rfl
  · obtain ⟨u, hu, htouched⟩ := exec_sel_busError hc hfit hexist hx
    refine ⟨_, hu, ?_, htouched.raiseError_unwritten _ _ _, fun a ha => ?_⟩
    · rw [← htouched.wrote, htouched.rest]
      rfl
    · rw [exec_sel] at hu
      exact (runSelector_writesOnly w count s).finish hu ha

end Sys2Proof.Machine
end

section
/-! PROOFS. The encoder's stages always answer (R82, R88, R90), and what an ENCODE whose ranges answer writes (R149). -/

namespace Sys2Proof.Machine

/-! ### Every entry is a width -/

/-- R82: every entry of the width array is a width. -/
def AllWidths (ws : List Nat) : Prop := ∀ x ∈ ws, ∃ w : Width, w.bits = x

theorem allWidths_initWidths (src : List Word) : AllWidths (initWidths src) := by
  intro x hx
  rcases List.mem_append.mp hx with hx | hx
  · obtain ⟨v, -, rfl⟩ := List.mem_map.mp hx
    exact ⟨_, rfl⟩
  · exact ⟨.w0, (List.eq_of_mem_replicate hx).symm⟩

theorem AllWidths.bounded {ws : List Nat} (h : AllWidths ws) : Bounded ws := by
  intro x hx
  obtain ⟨w, rfl⟩ := h x hx
  cases w <;> decide

theorem allWidths_pass1Groups : ∀ {g : Nat} {ws : List Nat}, AllWidths ws → AllWidths (pass1Groups g ws)
  | 0, _, h => h
  | _ + 1, [], h => h
  | g + 1, x :: xs, h => by
    intro y hy
    rcases List.mem_append.mp hy with hy | hy
    · rw [List.eq_of_mem_replicate hy]
      exact h _ (List.mem_of_mem_take (maxEntry_mem (by simp)))
    · exact allWidths_pass1Groups (fun z hz => h z (List.mem_of_mem_drop hz)) y hy

theorem allWidths_mapWindow {f : Nat → Nat} {ws : List Nat} {p len : Nat} (h : AllWidths ws)
    (hf : ∀ x ∈ window ws p len, ∃ w : Width, w.bits = f x) : AllWidths (mapWindow f ws p len) := by
  intro x hx
  simp only [mapWindow, List.mem_append, List.mem_map] at hx
  rcases hx with (hx | ⟨y, hy, rfl⟩) | hx
  · exact h x (List.mem_of_mem_take hx)
  · exact hf y hy
  · exact h x (List.mem_of_mem_drop hx)

theorem exists_width_getD {ws : List Nat} {p : Nat} (h : AllWidths ws) (hp : p < ws.length) :
    ∃ w : Width, w.bits = ws.getD p 0 := by
  simpa [List.getD_eq_getElem?_getD, hp] using h _ (List.getElem_mem hp)

/-- R87: the short-end rule gives a width. -/
theorem exists_width_of_shortEnd {rem m width : Nat} (h : ShortEnd rem m width) : ∃ w : Width, w.bits = width := by
  cases h with
  | eight => exact ⟨.w8, rfl⟩
  | sixteen => exact ⟨.w16, rfl⟩
  | thirtyTwo => exact ⟨.w32, rfl⟩

/-- R82: a width below 32 has a next width in the chain, with the next type code. -/
theorem exists_width_next {w : Width} (h : w.bits < 32) :
    ∃ w' : Width, w'.bits = w.next ∧ w'.typeCode.toNat = w.typeCode.toNat + 1 := by
  cases w with
  | w0 => exact ⟨.w1, rfl, rfl⟩
  | w1 => exact ⟨.w2, rfl, rfl⟩
  | w2 => exact ⟨.w3, rfl, rfl⟩
  | w3 => exact ⟨.w4, rfl, rfl⟩
  | w4 => exact ⟨.w5, rfl, rfl⟩
  | w5 => exact ⟨.w6, rfl, rfl⟩
  | w6 => exact ⟨.w7, rfl, rfl⟩
  | w7 => exact ⟨.w8, rfl, rfl⟩
  | w8 => exact ⟨.w9, rfl, rfl⟩
  | w9 => exact ⟨.w10, rfl, rfl⟩
  | w10 => exact ⟨.w12, rfl, rfl⟩
  | w12 => exact ⟨.w16, rfl, rfl⟩
  | w16 => exact ⟨.w21, rfl, rfl⟩
  | w21 => exact ⟨.w32, rfl, rfl⟩
  | w32 => exact absurd h (by decide)

theorem typeCode_le (w : Width) : w.typeCode.toNat ≤ 14 := by cases w <;> decide

/-! ### The scan -/

theorem getD_mapWindow {f : Nat → Nat} {ws : List Nat} {p len : Nat} (hlen : 0 < len) (h : p + len ≤ ws.length) :
    (mapWindow f ws p len).getD p 0 = f (ws.getD p 0) := by
  rw [(mapWindow_changed f h).2 p (by omega), if_pos (by omega)]

/-- R85: a promotion step keeps the array an array of widths, and the entry at `p` becomes the next width. -/
theorem promoteStep_widths {scope : PromoteScope} {ws : List Nat} {p : Nat} {w w' : Width} (h : AllWidths ws)
    (hp : p + w.blockInts ≤ ws.length) (hw : w.bits = ws.getD p 0) (hw' : w'.bits = w.next) :
    AllWidths (promoteStep scope ws p w) ∧ (promoteStep scope ws p w).length = ws.length ∧
      w'.bits = (promoteStep scope ws p w).getD p 0 := by
  have hN := blockInts_pos w
  cases scope with
  | window =>
    refine ⟨allWidths_mapWindow h fun x hx => ?_, length_mapWindow hp, ?_⟩
    · rcases max_choice x w.next with hmax | hmax <;> rw [hmax]
      · exact h x (mem_of_mem_window hx)
      · exact ⟨w', hw'⟩
    · rw [promoteStep, getD_mapWindow (by omega) hp, ← hw, hw', max_eq_right (bits_le_next w).1]
  | head =>
    refine ⟨allWidths_mapWindow h fun _ _ => ⟨w', hw'⟩, length_mapWindow (by omega), ?_⟩
    rw [promoteStep, getD_mapWindow (by omega) (by omega), hw']

/-- R88, R90: the scan answers within 16 iterations for each value left: each promotion at a position takes its width's
type code up by one, to at most 14, and each fill moves the position on. -/
theorem scan_answers {scope : PromoteScope} {se : Bool} {n : Nat} : ∀ {fuel p : Nat} {ws : List Nat} {w : Width},
    AllWidths ws → ws.length = n + 256 → w.bits = ws.getD p 0 → 16 * (n - p) + 15 ≤ fuel + w.typeCode.toNat →
    ∃ q ws', scan scope se n fuel p ws = .ok (q, ws') ∧ AllWidths ws'
  | 0, p, ws, w, _, _, _, hfuel => absurd hfuel (by have := typeCode_le w; omega)
  | fuel + 1, p, ws, w, hall, hlen, hw, hfuel => by
    have hcode := typeCode_le w
    unfold scan
    split
    case isTrue => exact ⟨p, ws, rfl, hall⟩
    case isFalse hp =>
    have hN := blockInts_le w
    have hN' := blockInts_pos w
    have hfit : p + w.blockInts ≤ ws.length := by omega
    split
    case h_1 width hse =>
      obtain ⟨w', hw'⟩ := exists_width_of_shortEnd (shortEnd_of_some hse).2
      exact ⟨_, _, rfl, allWidths_mapWindow hall fun _ _ => ⟨w', hw'⟩⟩
    case h_2 =>
    have hget : ws.getD p 64 = w.bits := by
      rw [hw]
      simp [List.getD_eq_getElem?_getD, show p < ws.length by omega]
    rw [hget, ofBits?_bits]
    dsimp only
    split
    case isTrue hany =>
      obtain ⟨x, hx, hlt⟩ := List.any_eq_true.mp hany
      have hlt : w.bits < 32 := lt_of_lt_of_le (of_decide_eq_true hlt) (hall.bounded x (mem_of_mem_window hx))
      obtain ⟨w', hw', hcode'⟩ := exists_width_next hlt
      obtain ⟨hall', hlen', hget'⟩ := promoteStep_widths (scope := scope) hall hfit hw hw'
      exact scan_answers hall' (hlen'.trans hlen) hget' (by omega)
    case isFalse =>
      have hall' := allWidths_mapWindow (f := fun _ => w.bits) (p := p) (len := w.blockInts) hall fun _ _ => ⟨w, rfl⟩
      have hlen' := (length_mapWindow (f := fun _ => w.bits) hfit).trans hlen
      obtain ⟨w', hw'⟩ := exists_width_getD hall' (p := p + w.blockInts) (by omega)
      exact scan_answers hall' hlen' hw' (by omega)

theorem toWidths_answers : ∀ {l : List Nat} {i : Nat}, AllWidths l → ∃ ws, toWidths i l = .ok ws
  | [], _, _ => ⟨[], rfl⟩
  | x :: xs, i, h => by
    obtain ⟨w, rfl⟩ := h x List.mem_cons_self
    obtain ⟨ws, hws⟩ := toWidths_answers (l := xs) (i := i + 1) fun y hy => h y (List.mem_cons_of_mem _ hy)
    exact ⟨w :: ws, by simp only [toWidths, ofBits?_bits, hws]⟩

/-- R88, R90: the encoder's stages answer for every source array. -/
theorem encodeBuffer_answers (scope : PromoteScope) (se : Bool) (src : List Word) :
    ∃ r, encodeBuffer scope se src = .ok r := by
  have hall : AllWidths (pass1 src.length (initWidths src)) := allWidths_pass1Groups (allWidths_initWidths src)
  have hlen : (pass1 src.length (initWidths src)).length = src.length + 256 :=
    (coarselyAligned_pass1 src.length (initWidths src)).1.trans (length_initWidths src)
  obtain ⟨w, hw⟩ := exists_width_getD hall (p := 0) (by omega)
  obtain ⟨q, ws, hscan, hws⟩ := scan_answers (scope := scope) (se := se) (n := src.length)
    (fuel := scanFuel src.length) hall hlen hw (by unfold scanFuel; omega)
  have hpromote : promote scope se src.length (initWidths src) = .ok (q, ws) := hscan
  obtain ⟨widths, hwidths⟩ := toWidths_answers (l := ws.take src.length) (i := 0) fun x hx =>
    hws x (List.mem_of_mem_take hx)
  exact ⟨_, by simp only [encodeBuffer, hpromote, hwidths]; rfl⟩

/-! ### The buffer in memory -/

/-- R149: byte writes that all complete leave their bytes. -/
theorem bytesAt_of_writeAll : ∀ {bytes : List Byte} {s t : State} {a : Nat},
    writeAll 1 s a (bytes.map BitVec.toNat) = .ok t → Memory.wf s.mem = true → BytesAt t.mem a bytes
  | [], _, _, _, _, _ => fun _ hi => absurd hi (Nat.not_lt_zero _)
  | b :: bytes, s, t, a, h, hm => by
    rw [List.map_cons] at h
    unfold writeAll at h
    split at h
    · cases h
    · rename_i s' hs'
      obtain ⟨rfl, hacc⟩ := memWrite_ok hs'
      have hin := (access_ok_iff.mp hacc).1
      refine bytesAt_cons.mpr ⟨?_, bytesAt_of_writeAll h (writeLE_wf _ hm hin)⟩
      rw [(writeAll_wroteOnly h).frame a (.inl (by omega))]
      have hbyte := read_writeLE_inside (n := 1) (a := a) b.toNat 0 hm hin (by omega)
      simpa using hbyte

theorem bytes_length_pos (r : Encoded) : 0 < r.bytes.length := by
  have := vlen_pos r.trlVal
  simp only [Encoded.bytes, List.length_append, vbyteEnc_length]
  omega

/-- R149: the writes of an ENCODE whose buffer fits and whose destination range answers. -/
theorem writeAll_buffer {s : State} {r : Encoded} (hadm : EncodeAdmitted s) (hd : NoBusErr s.params (encodeDest s))
    (hfits : r.bytes.length ≤ s.dl.toNat) :
    ∃ u, writeAll 1 (withEncodeScratch s r) s.da.toNat (r.bytes.map BitVec.toNat) = .ok u ∧ u.wrote = true := by
  have hdst := hadm.dstLegal
  have hlen : (r.bytes.map BitVec.toNat).length = r.bytes.length := List.length_map _
  obtain ⟨u, hu, htouched⟩ := (performs_writeAll (n := 1) (vs := r.bytes.map BitVec.toNat) (s := withEncodeScratch s r)
    (a := s.da.toNat) (accessesExist_consecutive (by rw [hlen]; omega))).ok
    (consecutive_answers fun a ha => hd a ⟨ha.1, by have := ha.2; simp only [hlen, encodeDest] at this ⊢; omega⟩)
  refine ⟨u, hu, htouched.wrote.trans ?_⟩
  obtain ⟨k, hk⟩ := Nat.exists_eq_add_of_le' (bytes_length_pos r)
  rw [hlen, hk, consecutive_succ, List.any_cons, Bool.true_or, Bool.or_true]

/-- R149, R146: an admitted ENCODE whose ranges answer and whose buffer fits. -/
theorem exec_cmdEncode_completes {s : State} {r : Encoded} (hm : Memory.wf s.mem = true) (hadm : EncodeAdmitted s)
    (hr : NoBusErr s.params (wordSource s)) (hd : NoBusErr s.params (encodeDest s))
    (hbuf : encodeBuffer s.params.promoteScope s.se (sourceWords s) = .ok r) (hfits : r.bytes.length ≤ s.dl.toNat) :
    ∃ u, exec .cmdEncode s = .next (complete u (r.bytes.length / 4) r.payload.length) ∧
      u = { withEncodeScratch s r with mem := u.mem, wrote := true } ∧ BytesAt u.mem s.da.toNat r.bytes ∧
      ∀ a, (a < s.da.toNat ∨ s.da.toNat + r.bytes.length ≤ a) → Memory.read u.mem a = Memory.read s.mem a := by
  obtain ⟨u, hu, hwrote⟩ := writeAll_buffer hadm hd hfits
  obtain ⟨hrest, -, hframe⟩ := writeAll_ok hu
  rw [List.length_map, Nat.one_mul] at hframe
  refine ⟨u, ?_, hwrote ▸ hrest, bytesAt_of_writeAll hu hm, hframe⟩
  change finish encodeDest (runEncode s) = _
  rw [runEncode_eq_andThen, planEncode_of_admitted hadm hr hbuf, if_neg (not_lt.mpr hfits), andThen_ok, hu, andThen_ok,
    finish_ok]

/-- R149: an admitted ENCODE whose source range answers and whose buffer does not fit. -/
theorem exec_cmdEncode_capacity {s : State} {r : Encoded} (hadm : EncodeAdmitted s)
    (hr : NoBusErr s.params (wordSource s))
    (hbuf : encodeBuffer s.params.promoteScope s.se (sourceWords s) = .ok r) (hlong : s.dl.toNat < r.bytes.length)
    (hw : s.wrote = false) :
    exec .cmdEncode s = .next (failedUnwritten (withEncodeScratch s r) .capacity r.bytes.length) := by
  change finish encodeDest (runEncode s) = _
  rw [runEncode_eq_andThen, planEncode_of_admitted hadm hr hbuf, if_pos hlong, andThen_error,
    finish_raise_unwritten (by rw [withEncodeScratch_wrote, hw])]

/-- Settles O30: the encoder always makes a buffer, and its length decides between its writes and CAPACITY. -/
theorem encodeWritesItsBufferOrReportsCapacity : Obligations.EncodeWritesItsBufferOrReportsCapacity := by
  intro s hm hadm hr hd
  obtain ⟨r, hbuf⟩ := encodeBuffer_answers s.params.promoteScope s.se (sourceWords s)
  refine ⟨r, hbuf, fun hfits => ?_, fun hlong hw => ⟨_, exec_cmdEncode_capacity hadm hr hbuf hlong hw, rfl⟩⟩
  obtain ⟨u, hexec, hrest, hbytes, hframe⟩ := exec_cmdEncode_completes hm hadm hr hd hbuf hfits
  refine ⟨_, hexec, hbytes, fun a ha => hframe a ?_, ?_⟩
  · simp only [Range.mem, not_and, not_lt] at ha
    omega
  · rw [hrest]
    rfl

end Sys2Proof.Machine
end

section
/-! PROOFS. Command words and selector bytes, encoded and decoded (R63 to R68), and the expansion of RUN (R76). -/

namespace Sys2Proof.Machine

/-! ### Fields put together and taken apart -/

/-- A field put below another adds in base `2 ^ k`. -/
theorem toNat_append_field {n k : Nat} (x : BitVec n) (y : BitVec k) : (x ++ y).toNat = x.toNat * 2 ^ k + y.toNat := by
  rw [BitVec.toNat_append, ← Nat.shiftLeft_add_eq_or_of_lt y.isLt, Nat.shiftLeft_eq]

/-- R64: TYPE is the high nibble of a selector byte. -/
theorem selector_type_toNat (sel : Byte) : (sel.extractLsb' 4 4).toNat = sel.toNat / 16 := by
  have := sel.isLt
  simp only [BitVec.extractLsb'_toNat, Nat.shiftRight_eq_div_pow]
  omega

/-- R64: CNT is the low nibble of a selector byte. -/
theorem selector_cnt_toNat (sel : Byte) : (sel.extractLsb' 0 4).toNat = sel.toNat % 16 := by
  simp only [BitVec.extractLsb'_toNat, Nat.shiftRight_eq_div_pow]
  omega

/-- R66: WIDTH(t) is entry `t` of WIDTHS. -/
theorem ofTypeCode?_eq (t : BitVec 4) : Width.ofTypeCode? t = allWidths[t.toNat]? := by
  revert t
  decide

theorem typeCode_of_ofTypeCode? {t : BitVec 4} {w : Width} (h : Width.ofTypeCode? t = some w) : w.typeCode = t := by
  simpa using List.find?_some h

/-- R65: a CNT field is the field of its block count. -/
theorem fieldOfCount_countOfField (f : BitVec 4) : fieldOfCount (countOfField f) = f := by
  revert f
  decide

/-! ### Selector bytes -/

@[simp] theorem encode_sel (w : Width) (c : Nat) : encode (Instr.sel w c) = [selectorByte w c] := by
  cases w <;> rfl

theorem countOperand_sel (w : Width) (c : Nat) : (Instr.sel w c).countOperand = some c := by
  cases w <;> rfl

/-- R65: a selector is well formed when its count is 1 to 16. -/
theorem wellFormed_sel (w : Width) (c : Nat) : (Instr.sel w c).wellFormed = true ↔ 1 ≤ c ∧ c ≤ 16 := by
  simp only [Instr.wellFormed, Instr.check, countOperand_sel, checkCount]
  split_ifs <;> simp [Except.isOk, Except.toBool] <;> omega

/-- R64 to R68: a selector byte whose TYPE names a width decodes to that width's selector. -/
theorem decodeSelector_of_type {sel : Byte} {w : Width} (h : allWidths[sel.toNat / 16]? = some w) :
    decodeSelector sel = .ok (Instr.sel w (16 - sel.toNat % 16)) := by
  rw [decodeSelector, ofTypeCode?_eq, selector_type_toNat, h, countOfField, selector_cnt_toNat]

/-- R67: a selector byte of TYPE 15 names nothing. -/
theorem decodeSelector_of_reserved {sel : Byte} (h : 0xF0 ≤ sel.toNat) :
    decodeSelector sel = .error .reservedSelector := by
  have hnone : allWidths[sel.toNat / 16]? = none := List.getElem?_eq_none (show 15 ≤ _ by omega)
  rw [decodeSelector, ofTypeCode?_eq, selector_type_toNat, hnone]

/-- R64, R65: a selector byte that decodes is the byte of the selector it decodes to. -/
theorem encode_of_decodeSelector {sel : Byte} {i : Instr} (h : decodeSelector sel = .ok i) :
    encode i = [sel] := by
  unfold decodeSelector at h
  split at h
  · cases h
  · rename_i w hw
    cases h
    rw [encode_sel, selectorByte, typeCode_of_ofTypeCode? hw, fieldOfCount_countOfField,
      BitVec.extractLsb'_append_extractLsb']

/-! ### Command words -/

/-- R63: the bytes of a command word, put together again. -/
theorem decode_commandBytes (cw : Word) : decode (commandBytes cw) = decodeCommand cw := by
  refine congrArg decodeCommand (BitVec.eq_of_toNat_eq ?_)
  have := cw.isLt
  simp only [toNat_append_field, BitVec.toNat_ofNat]
  omega

/-- R63: the bytes of a command word that was put together from them. -/
theorem commandBytes_append (b0 b1 b2 b3 : Byte) : commandBytes (b3 ++ b2 ++ b1 ++ b0) = [b0, b1, b2, b3] := by
  simp only [commandBytes, leBytes, toNat_append_field, List.cons.injEq, and_true]
  refine ⟨?_, ?_, ?_, ?_⟩ <;> bv_omega

theorem encode_of_decodeCommand {cw : Word} {i : Instr} (h : decodeCommand cw = .ok i) :
    encode i = commandBytes cw ∧ i.wellFormed = true := by
  rcases decodeCommand_ok h with ⟨rfl, rfl⟩ | ⟨rfl, rfl⟩ | ⟨rfl, rfl⟩ | ⟨rfl, rfl⟩ | ⟨rfl, rfl⟩ <;> exact ⟨rfl, rfl⟩

/-- R63, R68: an instruction is the meaning of a command word, or a width's selector. -/
theorem command_or_sel (i : Instr) : (∃ cw, decodeCommand cw = .ok i) ∨ ∃ w c, i = Instr.sel w c := by
  cases i with
  | cmdEncode => exact .inl ⟨1, rfl⟩
  | cmdDecode => exact .inl ⟨2, rfl⟩
  | cmdClassify => exact .inl ⟨3, rfl⟩
  | cmdVbyteEnc => exact .inl ⟨4, rfl⟩
  | cmdVbyteDec => exact .inl ⟨5, rfl⟩
  | selW0 c => exact .inr ⟨.w0, c, rfl⟩
  | selW1 c => exact .inr ⟨.w1, c, rfl⟩
  | selW2 c => exact .inr ⟨.w2, c, rfl⟩
  | selW3 c => exact .inr ⟨.w3, c, rfl⟩
  | selW4 c => exact .inr ⟨.w4, c, rfl⟩
  | selW5 c => exact .inr ⟨.w5, c, rfl⟩
  | selW6 c => exact .inr ⟨.w6, c, rfl⟩
  | selW7 c => exact .inr ⟨.w7, c, rfl⟩
  | selW8 c => exact .inr ⟨.w8, c, rfl⟩
  | selW9 c => exact .inr ⟨.w9, c, rfl⟩
  | selW10 c => exact .inr ⟨.w10, c, rfl⟩
  | selW12 c => exact .inr ⟨.w12, c, rfl⟩
  | selW16 c => exact .inr ⟨.w16, c, rfl⟩
  | selW21 c => exact .inr ⟨.w21, c, rfl⟩
  | selW32 c => exact .inr ⟨.w32, c, rfl⟩

/-! ### The statements -/

/-- Settles O2: a command word is put together from its bytes again, and a selector from the fields of its byte. -/
theorem decodeOfEncodeIsTheInstruction : Obligations.DecodeOfEncodeIsTheInstruction := by
  intro i hwf
  rcases command_or_sel i with ⟨cw, hcw⟩ | ⟨w, c, rfl⟩
  · rw [(encode_of_decodeCommand hcw).1, decode_commandBytes, hcw]
  · obtain ⟨hc, hc'⟩ := (wellFormed_sel w c).mp hwf
    rw [encode_sel]
    exact decodeSelector_selectorByte w hc hc'

/-- Settles O3: one byte that decodes is a selector, four are a command word, and no other length decodes. -/
theorem encodeOfDecodeIsTheBytes : Obligations.EncodeOfDecodeIsTheBytes := by
  intro bytes i h
  unfold decode at h
  split at h
  next sel =>
    obtain ⟨w, c, rfl, hc, hc'⟩ := decodeSelector_ok h
    exact ⟨encode_of_decodeSelector h, (wellFormed_sel w c).mpr ⟨hc, hc'⟩⟩
  next b0 b1 b2 b3 =>
    obtain ⟨hbytes, hwf⟩ := encode_of_decodeCommand h
    exact ⟨hbytes.trans (commandBytes_append b0 b1 b2 b3), hwf⟩
  next => cases h

/-- R76, R94: RUN and the pack engine use the same counts. -/
theorem expandRun_eq (w : Width) (blocks : Nat) :
    expandRun w blocks = (selectorCounts blocks blocks).map (Instr.sel w) := by
  rw [selectorCounts_eq (le_refl blocks), List.map_append, List.map_replicate, expandRun]
  split <;> rfl

/-- Settles O6: RUN's selectors have the pack engine's counts, and each is encoded as one byte. -/
theorem runExpandsToTheEmittedSelectors : Obligations.RunExpandsToTheEmittedSelectors := by
  intro w blocks _
  simp only [expandRun_eq, List.flatMap_map, encode_sel]
  exact List.map_eq_flatMap.symm

/-- Settles O1: the bytes are the encodings of their instructions. -/
theorem writtenOutWordsDecode : Obligations.WrittenOutWordsDecode := by
  have hdecode := decodeOfEncodeIsTheInstruction
  exact ⟨hdecode .cmdEncode rfl, hdecode .cmdDecode rfl, hdecode .cmdClassify rfl, hdecode .cmdVbyteEnc rfl,
    hdecode .cmdVbyteDec rfl, hdecode (.selW0 16) rfl, hdecode (.selW1 1) rfl, hdecode (.selW2 1) rfl,
    hdecode (.selW3 1) rfl, hdecode (.selW4 16) rfl, hdecode (.selW5 2) rfl, hdecode (.selW6 3) rfl,
    hdecode (.selW7 1) rfl, hdecode (.selW8 1) rfl, hdecode (.selW9 15) rfl, hdecode (.selW10 8) rfl,
    hdecode (.selW12 9) rfl, hdecode (.selW16 2) rfl, hdecode (.selW21 1) rfl, hdecode (.selW32 1) rfl⟩

/-- Settles O4: the five words are those that decode. -/
theorem legalCommandWordsAreOneToFive : Obligations.LegalCommandWordsAreOneToFive := by
  intro cw
  constructor
  · rintro ⟨i, hi⟩
    rcases decodeCommand_ok hi with ⟨rfl, -⟩ | ⟨rfl, -⟩ | ⟨rfl, -⟩ | ⟨rfl, -⟩ | ⟨rfl, -⟩ <;> decide
  · rintro ⟨hge, hle⟩
    have hcw : cw = 1 ∨ cw = 2 ∨ cw = 3 ∨ cw = 4 ∨ cw = 5 := by bv_omega
    rcases hcw with rfl | rfl | rfl | rfl | rfl <;> exact ⟨_, rfl⟩

/-- Settles O5: below 0xF0 the high nibble is a place of WIDTHS. -/
theorem selectorByteFields : Obligations.SelectorByteFields := by
  intro sel
  split
  next hlt =>
    have hin : sel.toNat / 16 < allWidths.length := show _ < 15 by omega
    exact ⟨_, List.getElem?_eq_getElem hin, decodeSelector_of_type (List.getElem?_eq_getElem hin)⟩
  next hge => exact decodeSelector_of_reserved (by omega)

end Sys2Proof.Machine
end

section
/-! PROOFS. The bytes of a block, word by word and value by value (R69 to R71, R96). -/

namespace Sys2Proof.Machine

/-- Pieces of `k` bytes, one after the other: each is a slice of the whole. -/
theorem slice_flatMap_range {k : Nat} {f : Nat → List Byte} (hk : ∀ i, (f i).length = k) : ∀ {n i : Nat}, i < n →
    (((List.range n).flatMap f).drop (k * i)).take k = f i
  | 0, _, hi => absurd hi (Nat.not_lt_zero _)
  | n + 1, i, hi => by
    have hlen : ((List.range n).flatMap f).length = k * n := by simp [List.length_flatMap, hk, Nat.mul_comm]
    rw [List.range_succ, List.flatMap_append, List.flatMap_singleton]
    rcases Nat.lt_succ_iff_lt_or_eq.mp hi with hlt | rfl
    · have hfit : k * i + k ≤ k * n := by
        rw [← Nat.mul_succ]
        exact Nat.mul_le_mul_left k hlt
      rw [List.drop_append_of_le_length (by omega), List.take_append_of_le_length (by rw [List.length_drop]; omega),
        slice_flatMap_range hk hlt]
    · rw [List.drop_left' hlen, List.take_of_length_le (hk i).le]

/-- A slice of a slice. -/
theorem slice_slice {l : List Byte} {a b k n : Nat} (h : b + k ≤ n) :
    (((l.drop a).take n).drop b).take k = (l.drop (a + b)).take k := by
  rw [List.drop_take, List.take_take, List.drop_drop, Nat.min_eq_left (by omega)]

/-- R46: the number of which the bytes are given. -/
theorem bytesLE_leBytes : ∀ n v : Nat, bytesLE (leBytes n v) = v % 256 ^ n
  | 0, v => by simp [bytesLE, leBytes, Nat.mod_one]
  | n + 1, v => by
    rw [leBytes, bytesLE, bytesLE_leBytes n, pow_succ, Nat.mul_comm (256 ^ n), Nat.mod_mul, BitVec.toNat_ofNat]

/-- R70: a column value is the sum of its rows' fields, each at its row's place. -/
theorem columnValue_eq_sum (w : Width) (v : Nat → Nat) (l : Nat) : ∀ rows : Nat, columnValue w v l rows =
    ((List.range rows).map (fun k => v (4 * k + l) % 2 ^ w.bits * 2 ^ (k * w.bits))).sum
  | 0 => rfl
  | rows + 1 => by
    rw [columnValue_succ, columnValue_eq_sum w v l rows, List.range_succ, List.map_append, List.sum_append]
    simp

/-- R70: the bytes of the word of unit `h`, column `l` of a packed block. -/
theorem packBlock_word {w : Width} {units : Nat} (hk : w.kind = .packed units) (v : Nat → Nat) (r : Nat) {h l : Nat}
    (hh : h < units) (hl : l < 4) : ((packBlock w v r).drop (16 * h + 4 * l)).take 4 =
      leBytes 4 (columnValue w v l (w.blockInts / 4) / 2 ^ (32 * h) % 2 ^ 32) := by
  have hunit := slice_flatMap_range (unitBytes_length w v) hh
  have hword := slice_flatMap_range (f := fun l => leBytes 4 ((columnValue w v l (w.blockInts / 4) >>> (32 * h)) % 2 ^ 32))
    (fun _ => leBytes_length 4 _) hl
  rw [packBlock, hk, ← slice_slice (n := 16) (by omega), hunit, unitBytes, hword, Nat.shiftRight_eq_div_pow]

/-- R71: the bytes of value `j` of a direct block. -/
theorem packBlock_value {w : Width} {bytes : Nat} (hk : w.kind = .direct bytes) (v : Nat → Nat) {r j : Nat} (hj : j < r) :
    ((packBlock w v r).drop (bytes * j)).take bytes = leBytes bytes (v j % 2 ^ w.bits) := by
  rw [packBlock, hk]
  simp only [and_mask]
  exact slice_flatMap_range (fun _ => leBytes_length bytes _) hj

/-- Settles O39: the rows of the table, and the block's words as columns of fields. -/
theorem packedBlockWords : Obligations.PackedBlockWords := by
  refine ⟨blockRow_mem_blockTable, fun w units v r h l hk hh hl => ⟨?_, ?_⟩⟩
  · rw [packBlock_length, bytesFor_packed hk, blockBytes_packed hk]
  · rw [packBlock_word hk v r hh hl, bytesLE_leBytes, columnValue_eq_sum]
    exact Nat.mod_eq_of_lt (Nat.mod_lt _ (by positivity))

/-- Settles O40: each value's bytes are a slice of the block. -/
theorem directBlockBytes : Obligations.DirectBlockBytes := by
  intro w bytes v r j hk hj
  refine ⟨(direct_bits hk).symm, ?_, ?_⟩
  · rw [packBlock_length, bytesFor_direct hk, Nat.mul_comm]
  · rw [Nat.mul_comm j, packBlock_value hk v hj, bytesLE_leBytes, direct_bits hk, pow_mul]
    exact Nat.mod_mod _ _

/-- Settles O41, by the inversion DECODE's selector loop rests on. -/
theorem blockReadsBackWhatWasPacked : Obligations.BlockReadsBackWhatWasPacked := fun _ _ _ _ _ _ hw hr hj hb =>
  blockValue_of_bytesAt hw hr hj hb

end Sys2Proof.Machine
end

section
/-! PROOFS. The layout of the encoder's buffer: its padding, and the selectors and payload of its runs (R73, R93 to R95,
R140). -/

namespace Sys2Proof.Machine

/-! ### Padding -/

/-- R138, R140: the trailer lengths, by the value `x = K + P` they are found for. -/
theorem trailerLen_eq (x : Nat) : trailerLen x =
    if x < 2 ^ 7 - 1 then 1 else if x < 2 ^ 14 - 2 then 2 else if x < 2 ^ 21 - 3 then 3
    else if x < 2 ^ 28 - 4 then 4 else 5 := by
  unfold trailerLen vlen
  grind

/-- R140: in seven values one after the other, the trailer length grows at most once, so it stays the same over the first
four of them or over the last four. -/
theorem trailerLen_window (x : Nat) : (∀ i, i ≤ 3 → trailerLen (x + i) = trailerLen x) ∨
    (∀ i, i ≤ 3 → trailerLen (x + 3 + i) = trailerLen (x + 3)) := by
  by_cases h : trailerLen (x + 3) = trailerLen x
  all_goals simp only [trailerLen_eq] at h ⊢
  · exact .inl fun i hi => by grind
  · exact .inr fun i hi => by grind

/-- R140: a padding of at most 6 bytes aligns the buffer's length: over four paddings with one trailer length, the length
takes every residue. -/
theorem exists_aligning_pad (S K : Nat) : ∃ Q, Q ≤ 6 ∧ (S + K + Q + trailerLen (K + Q)) % 4 = 0 := by
  rcases trailerLen_window K with hsame | hsame
  · refine ⟨(4 - (S + K + trailerLen K) % 4) % 4, by omega, ?_⟩
    rw [hsame _ (by omega)]
    omega
  · refine ⟨3 + (4 - (S + K + 3 + trailerLen (K + 3)) % 4) % 4, by omega, ?_⟩
    rw [← Nat.add_assoc K, hsame _ (by omega)]
    omega

/-- R140: the padding loop stops at a padding that aligns the length, and not after any that does. -/
theorem padFrom_aligns {S K Q : Nat} (hQ : (S + K + Q + trailerLen (K + Q)) % 4 = 0) : ∀ {fuel P : Nat}, P ≤ Q →
    Q < P + fuel → padFrom S K fuel P ≤ Q ∧
      (S + K + padFrom S K fuel P + trailerLen (K + padFrom S K fuel P)) % 4 = 0
  | 0, _, h1, h2 => absurd h2 (by omega)
  | fuel + 1, P, h1, h2 => by
    unfold padFrom
    split
    next hP => exact ⟨h1, hP⟩
    next hP =>
      have hne : P ≠ Q := by
        rintro rfl
        exact hP hQ
      exact padFrom_aligns hQ (by omega) (by omega)

/-- R140: the padding is at most 6 bytes and aligns the buffer's length. -/
theorem padLen_aligns (S K : Nat) :
    padLen S K ≤ 6 ∧ (S + K + padLen S K + trailerLen (K + padLen S K)) % 4 = 0 := by
  obtain ⟨Q, hQ6, hQ⟩ := exists_aligning_pad S K
  obtain ⟨hle, haligned⟩ := padFrom_aligns hQ (fuel := 16) (Nat.zero_le Q) (by omega)
  exact ⟨hle.trans hQ6, haligned⟩

/-! ### What the runs emit -/

/-- R94: the selectors of a run, as the bytes 16 * TYPE + CNT. -/
theorem runSelectors_eq_emitted (x : Run) : runSelectors x = emittedSelectors x := by
  have hfull := selectorByte_eq x.width (c := 16) (by omega) (by omega)
  rw [runSelectors, emittedSelectors, selectorCounts_eq (le_refl _), List.map_append, List.map_replicate, hfull]
  change _ ++ List.map _ (if blockCount x % 16 = 0 then _ else [blockCount x % 16]) = _
  split
  · rfl
  · rw [List.map_singleton, selectorByte_eq x.width (by omega) (by omega)]
    rfl

theorem sourceAt_eq_valueOrZero (src : List Word) : sourceAt src = valueOrZero src := by
  funext i
  rw [sourceAt, valueOrZero, List.getD_eq_getElem?_getD]
  cases src[i]? <;> rfl

/-- R93, R95: the payload of a run. -/
theorem runPayload_eq_emitted (src : List Word) (x : Run) : runPayload src x = emittedPayload src x := by
  rw [runPayload, sourceAt_eq_valueOrZero]
  rfl

/-- Settles O38, from the encoder's stages, the padding that aligns and the trailer length that is self-consistent. -/
theorem compressedBufferLayout : Obligations.CompressedBufferLayout := by
  intro scope se src r h
  obtain ⟨-, hpayload, hsels, hpad, hval⟩ := encodeBuffer_ok h
  obtain ⟨hpad6, haligned⟩ := padLen_aligns r.payload.length r.sels.length
  rw [← hpad] at hpad6 haligned
  have hvlen := vlen_trailerLen (r.sels.length + r.pad)
  rw [← hval] at hvlen
  have hlen : r.bytes.length = r.payload.length + r.sels.length + r.pad + vlen r.trlVal := by
    simp only [Encoded.bytes, List.length_append, List.length_replicate, vbyteEnc_length]
  refine ⟨rfl, hpad6, vbyteEnc_length _, vlen_pos _, vlen_le _, by omega, by omega, by omega, ?_, ?_⟩
  · rw [hsels, funext runSelectors_eq_emitted]
  · rw [hpayload, funext (runPayload_eq_emitted src)]

end Sys2Proof.Machine
end

section
/-! PROOFS. A selector whose payload and outputs answer runs to its end (R115, R116, R119, R123 to R137). -/

namespace Sys2Proof.Machine

/-! ### Blocks -/

/-- R119, R123, R156, R50, R52: a block or a selector that consumes `n` payload bytes and writes `k` values can run to its
end: its outputs exist and answer and memory is in its canonical form; if it reads payload, as every width but 0 does, that
lies below the selector start, exists, answers, and is apart from the outputs. -/
structure CanUnpack (w : Width) (n k : Nat) (s : State) : Prop where
  memWf : Memory.wf s.mem = true
  writesExist : s.da.toNat + 4 * (s.oc + k) ≤ 2 ^ 32
  writesAnswer : NoBusErr s.params ⟨s.da.toNat + 4 * s.oc, s.da.toNat + 4 * (s.oc + k)⟩
  payload : w ≠ .w0 → s.pp + n ≤ s.selStart
  readsExist : w ≠ .w0 → s.sa.toNat + s.pp + n ≤ 2 ^ 32
  readsAnswer : w ≠ .w0 → NoBusErr s.params ⟨s.sa.toNat + s.pp, s.sa.toNat + s.pp + n⟩
  apart : w ≠ .w0 → s.sa.toNat + s.pp + n ≤ s.da.toNat + 4 * s.oc ∨ s.da.toNat + 4 * (s.oc + k) ≤ s.sa.toNat + s.pp

theorem NoBusErr.mono {p : Params} {r r' : Range} (h : NoBusErr p r) (hlo : r.lo ≤ r'.lo) (hhi : r'.hi ≤ r.hi) :
    NoBusErr p r' :=
  fun a ha => h a ⟨hlo.trans ha.1, ha.2.trans_le hhi⟩

/-- What can run to its end can run its first part to its end. -/
theorem CanUnpack.first {w : Width} {n n' k k' : Nat} {s : State} (h : CanUnpack w (n + n') (k + k') s) :
    CanUnpack w n k s where
  memWf := h.memWf
  writesExist := by have := h.writesExist; omega
  writesAnswer := h.writesAnswer.mono (le_refl _) (by simp only; omega)
  payload hw := by have := h.payload hw; omega
  readsExist hw := by have := h.readsExist hw; omega
  readsAnswer hw := (h.readsAnswer hw).mono (le_refl _) (by simp only; omega)
  apart hw := by have := h.apart hw; omega

/-- `s` with its payload cursor `n` bytes and its output cursor `k` values on, over the memory the work left. -/
def advance (s : State) (m : Memory) (wrote : Bool) (n k : Nat) : State :=
  { s with mem := m, wrote := wrote, pp := s.pp + n, oc := s.oc + k }

@[simp] theorem advance_sa (s : State) (m : Memory) (wrote : Bool) (n k : Nat) : (advance s m wrote n k).sa = s.sa := rfl

@[simp] theorem advance_da (s : State) (m : Memory) (wrote : Bool) (n k : Nat) : (advance s m wrote n k).da = s.da := rfl

@[simp] theorem advance_selStart (s : State) (m : Memory) (wrote : Bool) (n k : Nat) :
    (advance s m wrote n k).selStart = s.selStart := rfl

@[simp] theorem advance_params (s : State) (m : Memory) (wrote : Bool) (n k : Nat) :
    (advance s m wrote n k).params = s.params := rfl

@[simp] theorem advance_mem (s : State) (m : Memory) (wrote : Bool) (n k : Nat) : (advance s m wrote n k).mem = m := rfl

@[simp] theorem advance_pp (s : State) (m : Memory) (wrote : Bool) (n k : Nat) :
    (advance s m wrote n k).pp = s.pp + n := rfl

@[simp] theorem advance_oc (s : State) (m : Memory) (wrote : Bool) (n k : Nat) :
    (advance s m wrote n k).oc = s.oc + k := rfl

/-- Moving the cursors on twice moves them on by both amounts. -/
theorem advance_advance (s : State) (m m' : Memory) (wrote wrote' : Bool) (n n' k k' : Nat) :
    advance (advance s m wrote n k) m' wrote' n' k' = advance s m' wrote' (n + n') (k + k') := by
  simp only [advance, Nat.add_assoc]

/-- What can run to its end can run its last part to its end, from where the first part ended. -/
theorem CanUnpack.last {w : Width} {n n' k k' : Nat} {s : State} (h : CanUnpack w (n + n') (k + k') s) {m : Memory}
    (hm : Memory.wf m = true) (wrote : Bool) : CanUnpack w n' k' (advance s m wrote n k) := by
  obtain ⟨-, hwrites, hwa, hpay, hreads, hra, hapart⟩ := h
  constructor <;> simp only [advance_mem, advance_params, advance_da, advance_sa, advance_oc, advance_pp, advance_selStart]
  case memWf => exact hm
  case writesExist => omega
  case writesAnswer => exact hwa.mono (by simp only; omega) (by simp only; omega)
  all_goals intro hw
  case payload => have := hpay hw; omega
  case readsExist => have := hreads hw; omega
  case readsAnswer => exact (hra hw).mono (by simp only; omega) (by simp only; omega)
  case apart => have := hapart hw; omega

/-- R115: the state after a block, its outputs counted. -/
theorem BlockUnpacked.advance_eq {w : Width} {r : Nat} {s t : State} (h : BlockUnpacked w r s t) :
    { t with oc := s.oc + r } = advance s t.mem t.wrote (w.bytesFor r) r := by
  rw [advance, ← h.consumed, h.wrote.rest]

/-- R123: a block of width 0 reads no payload. -/
theorem unpackBlock_w0_of_canUnpack {n r : Nat} {s : State} (h : CanUnpack .w0 n r s) :
    ∃ t, unpackBlock .w0 r s = .ok t ∧ BlockUnpacked .w0 r s t := by
  have hexist := h.writesExist
  obtain ⟨t, ht⟩ := writeAll_of_access (n := 4) (vs := List.replicate r 1) (s := s) (a := s.da.toNat + 4 * s.oc)
    (by rw [List.length_replicate]; omega)
    (fun b h1 h2 => h.writesAnswer b ⟨h1, by rw [List.length_replicate] at h2; simp only; omega⟩)
  have hwrote := writeAll_wroteOnly ht
  rw [List.length_replicate] at hwrote
  refine ⟨t, ht, fun j hj => ?_, hwrote.mono (le_refl _) (by omega), by rw [(writeAll_ok ht).1]; rfl⟩
  rw [Nat.mul_add, ← Nat.add_assoc, wordAt_of_writeAll ht h.memWf (v := 1) (by simp [hj])]
  rfl

/-- R123 to R137: a block of any width. -/
theorem unpackBlock_of_canUnpack {w : Width} {r : Nat} {s : State} (h : CanUnpack w (w.bytesFor r) r s) :
    ∃ t, unpackBlock w r s = .ok t ∧ BlockUnpacked w r s t := by
  by_cases hw : w = .w0
  · subst hw
    exact unpackBlock_w0_of_canUnpack h
  · exact unpackBlock_of_runnable ⟨h.memWf, h.payload hw, h.readsExist hw, h.writesExist, h.readsAnswer hw,
      h.writesAnswer, h.apart hw⟩

/-- R70, R71: a value of a block depends on the bytes of its payload only. -/
theorem blockValue_congr {w : Width} {m m' : Memory} {base r j : Nat} (hj : j < r)
    (h : ∀ a, base ≤ a → a < base + w.bytesFor r → Memory.read m a = Memory.read m' a) :
    blockValue m w base j = blockValue m' w base j := by
  have hcol : j % 4 < 4 := Nat.mod_lt _ (by omega)
  cases hk : w.kind with
  | zero => simp only [blockValue, hk]
  | packed units =>
    rw [bytesFor_packed hk] at h
    have hword : ∀ i, i + 4 ≤ 16 * units → Memory.readLE m (base + i) 4 = Memory.readLE m' (base + i) 4 := fun i hi =>
      readLE_congr fun a h1 h2 => h a (by omega) (by omega)
    simp only [blockValue, hk]
    rcases kind_units hk with rfl | rfl
    · rw [hword _ (by omega), if_neg (by omega), if_neg (by omega)]
    · rw [hword _ (by omega), Nat.add_assoc base 16, hword _ (by omega)]
  | direct bytes =>
    rw [bytesFor_direct hk] at h
    have hfit : bytes * j + bytes ≤ bytes * r := by
      rw [← Nat.mul_succ]
      exact Nat.mul_le_mul_left bytes hj
    simp only [blockValue, hk]
    exact readLE_congr fun a h1 h2 => h a (by omega) (by omega)

/-! ### The blocks of a selector -/

theorem selectorBytes_zero {w : Width} {c : Nat} {s : State} (h : selectorOutputs w c s = 0) :
    selectorBytes w c s = 0 := by
  have hnone := blocksOf_zero w
  rw [blocksOf] at hnone
  unfold selectorBytes
  split
  · rfl
  · rw [h, hnone, Nat.zero_mul]
  · rw [h, Nat.mul_zero]

/-- R115: the outputs of a selector within its first block. -/
theorem selectorValue_first {w : Width} {s : State} {i : Nat} (hi : i < w.blockInts) :
    selectorValue w s i = blockValue s.mem w (s.sa.toNat + s.pp) i := by
  rw [selectorValue, Nat.div_eq_of_lt hi, Nat.mod_eq_of_lt hi, Nat.zero_mul, Nat.add_zero]

/-- R115: the outputs of a selector after its first block, read from one memory, are those of the blocks left. -/
theorem AfterBlock.selectorValue {w : Width} {s t : State} {c i : Nat} (h : AfterBlock w s t) (m : Memory)
    (hi : i < selectorOutputs w c t) :
    selectorValue w { s with mem := m } (min w.blockInts (s.dl.toNat - s.oc) + i) =
      selectorValue w { t with mem := m } i := by
  have hN := blockInts_pos w
  have hwhole : min w.blockInts (s.dl.toNat - s.oc) = w.blockInts := (h.whole_or_last (c := c)).resolve_right (by omega)
  simp only [Machine.selectorValue, h.sa, h.pp, hwhole, blockBytes_eq, Nat.add_mod_left]
  rw [Nat.add_div_left _ (by omega), Nat.succ_mul]
  congr 1
  omega

/-- R115, R116, R119: what `c` blocks that run to their end leave: the outputs of the selector, its payload, which stands
in `m`, consumed, and nothing else changed. -/
structure BlocksUnpacked (m : Memory) (w : Width) (c : Nat) (s t : State) : Prop where
  outputs : ∀ i, i < selectorOutputs w c s →
    wordAt t.mem (s.da.toNat + 4 * (s.oc + i)) = selectorValue w { s with mem := m } i
  frame : ∀ a, (a < s.da.toNat + 4 * s.oc ∨ s.da.toNat + 4 * (s.oc + selectorOutputs w c s) ≤ a) →
    Memory.read t.mem a = Memory.read s.mem a
  rest : t = advance s t.mem t.wrote (selectorBytes w c s) (selectorOutputs w c s)

theorem BlocksUnpacked.none {m : Memory} {w : Width} {c : Nat} {s : State} (h : selectorOutputs w c s = 0) :
    BlocksUnpacked m w c s s where
  outputs i hi := absurd hi (by omega)
  frame _ _ := rfl
  rest := by rw [h, selectorBytes_zero h]; rfl

/-- R119: a block or a selector that consumes `n` bytes of payload reads from `s` what stands in `m`; width 0 reads
none. -/
def PayloadFrom (m : Memory) (w : Width) (n : Nat) (s : State) : Prop :=
  w ≠ .w0 → ∀ a, s.sa.toNat + s.pp ≤ a → a < s.sa.toNat + s.pp + n → Memory.read s.mem a = Memory.read m a

/-- R52: the first part's outputs are apart from the payload of the last. -/
theorem PayloadFrom.last {m x : Memory} {w : Width} {n n' k k' : Nat} {s : State} (h : PayloadFrom m w (n + n') s)
    (hcan : CanUnpack w (n + n') (k + k') s)
    (hframe : ∀ a, (a < s.da.toNat + 4 * s.oc ∨ s.da.toNat + 4 * (s.oc + k) ≤ a) → Memory.read x a = Memory.read s.mem a)
    (wrote : Bool) : PayloadFrom m w n' (advance s x wrote n k) := fun hw a h1 h2 => by
  have hapart := hcan.apart hw
  rw [advance_sa, advance_pp] at h1 h2
  rw [advance_mem]
  rw [hframe a (by omega), h hw a (by omega) (by omega)]

/-- The state a selector's first block leaves is an advance over its payload and its outputs. -/
theorem afterBlock_advance (w : Width) (s : State) (m : Memory) (wrote : Bool) {r : Nat}
    (hr : min w.blockInts (s.dl.toNat - s.oc) = r) : AfterBlock w s (advance s m wrote (w.bytesFor r) r) := by
  subst hr
  exact ⟨rfl, rfl, rfl, rfl, rfl, rfl⟩

/-- R115: a selector's first block, then the blocks after it. -/
theorem BlocksUnpacked.cons {m : Memory} {w : Width} {c r : Nat} {s u t : State} (hoc : s.oc < s.dl.toNat)
    (hr : min w.blockInts (s.dl.toNat - s.oc) = r) (hm : PayloadFrom m w (w.bytesFor r) s)
    (hblock : BlockUnpacked w r s u)
    (h : BlocksUnpacked m w c (advance s u.mem u.wrote (w.bytesFor r) r) t) : BlocksUnpacked m w (c + 1) s t := by
  have hafter := afterBlock_advance w s u.mem u.wrote hr
  have houtputs := selectorOutputs_succ (c := c) hafter.dl hafter.oc
  have hbytes := hafter.selectorBytes (c := c) hoc
  obtain ⟨hout, hframe, hrest⟩ := h
  rw [hr] at houtputs hbytes
  constructor
  case outputs =>
    intro i hi
    by_cases hir : i < r
    · have hvalue : blockValue s.mem w (s.sa.toNat + s.pp) i = blockValue m w (s.sa.toNat + s.pp) i := by
        by_cases hw : w = .w0
        · subst hw
          rfl
        · exact blockValue_congr hir (hm hw)
      rw [selectorValue_first (by omega), ← hvalue, ← hblock.outputs i hir]
      exact readLE_congr fun a _ ha => hframe a (.inl (by rw [advance_da, advance_oc]; omega))
    · obtain ⟨j, rfl⟩ := Nat.exists_eq_add_of_le (not_lt.mp hir)
      have hj : j < selectorOutputs w c (advance s u.mem u.wrote (w.bytesFor r) r) := by omega
      have hvalue := hafter.selectorValue m hj
      rw [hr] at hvalue
      rw [hvalue, ← hout j hj, ← Nat.add_assoc]
      rfl
  case frame =>
    intro a ha
    rw [houtputs] at ha
    rw [hframe a (by rw [advance_da, advance_oc]; omega), advance_mem]
    exact hblock.wrote.frame a (by omega)
  case rest =>
    rw [houtputs, hbytes, ← advance_advance s u.mem t.mem u.wrote]
    exact hrest

/-- R115: the blocks of a selector that can run to its end. -/
theorem unpackBlocks_of_canUnpack {m : Memory} {w : Width} : ∀ {c : Nat} {s : State},
    CanUnpack w (selectorBytes w c s) (selectorOutputs w c s) s → PayloadFrom m w (selectorBytes w c s) s →
    ∃ t, unpackBlocks w c s = .ok t ∧ BlocksUnpacked m w c s t
  | 0, s, _, _ => ⟨s, rfl, .none (by simp [selectorOutputs])⟩
  | c + 1, s, hcan, hm => by
    rw [unpackBlocks_succ]
    split
    case isTrue hdone => exact ⟨s, rfl, .none (by simp [selectorOutputs, Nat.sub_eq_zero_of_le hdone])⟩
    case isFalse hmore =>
      have hoc := not_le.mp hmore
      generalize hr : min w.blockInts (s.dl.toNat - s.oc) = r
      have hafter := afterBlock_advance w s s.mem s.wrote hr
      rw [hafter.selectorBytes hoc, selectorOutputs_succ hafter.dl hafter.oc, hr] at hcan
      rw [hafter.selectorBytes hoc, hr] at hm
      obtain ⟨u, hu, hblock⟩ := unpackBlock_of_canUnpack hcan.first
      obtain ⟨t, ht, hrest⟩ := unpackBlocks_of_canUnpack (m := m) (c := c)
        (hcan.last (hblock.wrote.wf hcan.memWf) u.wrote) (hm.last hcan hblock.wrote.frame u.wrote)
      refine ⟨t, ?_, hrest.cons hoc hr (fun hw a h1 h2 => hm hw a h1 (by omega)) hblock⟩
      rw [hu, andThen_ok, hblock.advance_eq, ht]

theorem endIfDone_wrote (s : State) : (endIfDone s).wrote = s.wrote := by
  unfold endIfDone
  split <;> rfl

/-- R115, R116, R146: a selector whose blocks ran to their end. -/
theorem BlocksUnpacked.selectorDone {w : Width} {count : Nat} {s t : State} (h : BlocksUnpacked s.mem w count s t) :
    SelectorDone w count s (endIfDone { t with sc := t.sc + 1 }) where
  outputs i hi := by rw [endIfDone_mem]; exact h.outputs i hi
  frame a ha := by
    rw [endIfDone_mem]
    refine h.frame a ?_
    simp only [Range.mem, not_and, not_lt] at ha
    omega
  rest := by
    rw [endIfDone_mem, endIfDone_wrote, h.rest]
    rfl

/-- R115, R116, R146: a selector that can run to its end completes. -/
theorem exec_sel_of_canUnpack {w : Width} {count : Nat} {s : State}
    (h : CanUnpack w (selectorBytes w count s) (selectorOutputs w count s) s) :
    ∃ t, exec (Instr.sel w count) s = .next t ∧ SelectorDone w count s t := by
  obtain ⟨t, ht, hdone⟩ := unpackBlocks_of_canUnpack (m := s.mem) h (fun _ _ _ _ => rfl)
  exact ⟨_, by rw [exec_sel, execSelector, runSelector, ht]; rfl, hdone.selectorDone⟩

theorem SelectorRunnable.canUnpack {w : Width} {count : Nat} {s : State} (h : SelectorRunnable w count s) :
    CanUnpack w (selectorBytes w count s) (selectorOutputs w count s) s :=
  ⟨h.memWf, h.writesExist, h.writesAnswer, fun _ => h.payload, fun _ => h.readsExist, fun _ => h.readsAnswer,
    fun _ => h.apart⟩

/-- R71: output `i` of a direct selector is value `i` of its payload. -/
theorem selectorValue_direct {w : Width} {bytes : Nat} (hk : w.kind = .direct bytes) (s : State) (i : Nat) :
    selectorValue w s i = Memory.readLE s.mem (s.sa.toNat + s.pp + bytes * i) bytes := by
  have hB : w.blockBytes = bytes * w.blockInts := by rw [← blockBytes_eq, bytesFor_direct hk]
  simp only [selectorValue, blockValue, hk, hB]
  congr 1
  conv_rhs => rw [← Nat.div_add_mod i w.blockInts]
  ring

/-- Settles O47: the general selector's outputs, read as the stored values. -/
theorem directSelectorsComplete : Obligations.DirectSelectorsComplete := by
  intro w bytes count s hk h
  obtain ⟨t, ht, hdone⟩ := exec_sel_of_canUnpack h.canUnpack
  exact ⟨t, ht, hdone, fun i hi => (hdone.outputs i hi).trans (selectorValue_direct hk s i)⟩

/-- Settles O45: of what a selector needs to run to its end, width 0 needs its outputs alone, and its values are 1. -/
theorem zeroWidthSelectorCompletes : Obligations.ZeroWidthSelectorCompletes := by
  intro count s hm hexist hanswer
  obtain ⟨t, ht, hdone⟩ := exec_sel_of_canUnpack (w := .w0) (count := count) (s := s)
    ⟨hm, hexist, hanswer, fun h => absurd rfl h, fun h => absurd rfl h, fun h => absurd rfl h, fun h => absurd rfl h⟩
  exact ⟨t, ht, hdone, hdone.outputs⟩

end Sys2Proof.Machine
end

section
/-! PROOFS. A value fits the field of its classified width, and every wider field (R79). -/

namespace Sys2Proof.Machine

/-- R79: a field of width above 0, from the classified width up, has room for the value. -/
theorem toNat_lt_of_classify_le {v : Word} {w : Width} (hw : w ≠ .w0) (h : (classify v).bits ≤ w.bits) :
    v.toNat < 2 ^ w.bits := by
  have hgives := givesBack_of_classify_le h
  rwa [GivesBack, if_neg hw] at hgives

/-- Settles O24: either the value is the 1 that width 0 marks or it is below the field's bound, and a field from the
classified width up cuts no bit off a value that it has room for. -/
theorem classifiedWidthHoldsTheValue : Obligations.ClassifiedWidthHoldsTheValue := by
  intro v
  constructor
  · rcases classify_holds v with ⟨hzero, hone⟩ | ⟨-, hlt⟩
    · exact .inl ⟨hzero, BitVec.eq_of_toNat_eq hone⟩
    · exact .inr (Nat.le_sub_one_of_lt hlt)
  · intro w hw hle
    exact Nat.mod_eq_of_lt (toNat_lt_of_classify_le hw hle)

end Sys2Proof.Machine
end

section
/-! PROOFS. The encoder's stages answer for every source array (R88, R90), and the runs they leave partition it at the
promoted widths (R91, R92). -/

namespace Sys2Proof.Machine

/-- Settles O32: every promotion and every fill uses up a part of the scan's fuel, and every entry stays a width. -/
theorem encoderNeverRaisesInternal : Obligations.EncoderNeverRaisesInternal :=
  encodeBuffer_answers

/-! ### Maximal spans of one width -/

/-- R91: the runs are the maximal spans of one width in a list of widths whose first index is `i`. -/
inductive Spans : Nat → List Width → List Run → Prop where
  | done {i : Nat} : Spans i [] []
  | run {i k : Nat} {w : Width} {ws : List Width} {rs : List Run} : 0 < k → (∀ y ∈ rs.head?, w ≠ y.width) →
      Spans (i + k) ws rs → Spans i (List.replicate k w ++ ws) (⟨i, k, w⟩ :: rs)

/-- R91: a width put before spans lengthens the first of them, or is a span of its own. -/
theorem Spans.prepend {i : Nat} {w : Width} {ws : List Width} {rs : List Run} (h : Spans (i + 1) ws rs) :
    Spans i (w :: ws) (prependRun i 1 w rs) := by
  generalize hi' : i + 1 = i' at h
  cases h with
  | done => exact .run (ws := []) Nat.one_pos (by simp) .done
  | @run _ k w' ws rs hk hne hrs =>
    rw [prependRun]
    split
    case isTrue hw =>
      obtain rfl : w' = w := hw
      rw [← List.cons_append, ← List.replicate_succ]
      refine .run k.succ_pos hne ?_
      rwa [show i + (k + 1) = i' + k by omega]
    case isFalse hw =>
      subst hi'
      refine .run (ws := List.replicate k w' ++ ws) (k := 1) Nat.one_pos (fun y hy => ?_) (.run hk hne hrs)
      cases hy
      exact fun h => hw h.symm

theorem spans_runsFrom : ∀ (ws : List Width) (i : Nat), Spans i ws (runsFrom i ws)
  | [], _ => .done
  | w :: ws, i => by
    rw [runsFrom_cons]
    exact (spans_runsFrom ws (i + 1)).prepend

theorem Spans.sum_len {i : Nat} {ws : List Width} {rs : List Run} (h : Spans i ws rs) :
    (rs.map Run.len).sum = ws.length := by
  induction h with
  | done => rfl
  | run _ _ _ ih => simp [ih]

/-- R91: each run begins where the runs before it end, and none is empty. -/
theorem Spans.start_eq {i : Nat} {ws : List Width} {rs : List Run} (h : Spans i ws rs) :
    ∀ {q : Nat} {x : Run}, rs[q]? = some x → x.start = i + ((rs.take q).map Run.len).sum ∧ 0 < x.len := by
  induction h with
  | done => intro q x hx; cases hx
  | run hk _ _ ih =>
    intro q x hx
    cases q with
    | zero =>
      cases hx
      exact ⟨rfl, hk⟩
    | succ q =>
      obtain ⟨hstart, hlen⟩ := ih hx
      rw [List.take_succ_cons, List.map_cons, List.sum_cons, ← Nat.add_assoc]
      exact ⟨hstart, hlen⟩

theorem Spans.isChain {i : Nat} {ws : List Width} {rs : List Run} (h : Spans i ws rs) :
    rs.IsChain (fun x y => x.width ≠ y.width) := by
  induction h with
  | done => exact .nil
  | run _ hne _ ih => exact List.isChain_cons.mpr ⟨hne, ih⟩

/-- R91: a run's width stands at each of its positions. -/
theorem Spans.getElem?_eq {i : Nat} {ws : List Width} {rs : List Run} (h : Spans i ws rs) :
    ∀ {x : Run}, x ∈ rs → i ≤ x.start ∧ ∀ j, x.start ≤ j → j < x.start + x.len → ws[j - i]? = some x.width := by
  induction h with
  | done => intro x hx; cases hx
  | @run i k w ws rs _ _ _ ih =>
    intro x hx
    rcases List.mem_cons.mp hx with rfl | hx
    · refine ⟨le_refl i, fun j hlo hhi => ?_⟩
      simp only at hlo hhi
      have hj : j - i < k := by omega
      rw [List.getElem?_append_left (by simpa using hj), List.getElem?_replicate, if_pos hj]
    · obtain ⟨hstart, hwidth⟩ := ih hx
      refine ⟨by omega, fun j hlo hhi => ?_⟩
      rw [List.getElem?_append_right (by simp only [List.length_replicate]; omega), List.length_replicate,
        Nat.sub_sub]
      exact hwidth j hlo hhi

/-! ### Whole blocks -/

theorem Tiles.lt_length_of_ne_nil {src : List Word} {b : Nat} {l : List Run} (h : Tiles src b l) (hl : l ≠ []) :
    b < src.length := by
  cases h with
  | done => exact absurd rfl hl
  | run hlen hend => omega

/-- R92: a run that others follow is whole blocks, because the array goes on where its last block ends. -/
theorem Tiles.whole_of_mem_dropLast {src : List Word} {b : Nat} {l : List Run} (h : Tiles src b l) :
    ∀ x ∈ l.dropLast, x.len % x.width.blockInts = 0 := by
  induction h with
  | done => simp
  | @run y l _ hend _ hl ih =>
    intro x hx
    rcases eq_or_ne l [] with rfl | hne
    · cases hx
    · rw [List.dropLast_cons_of_ne_nil hne] at hx
      rcases List.mem_cons.mp hx with rfl | hx
      · have hlt := hl.lt_length_of_ne_nil hne
        have hlen : x.len = x.blocks * x.width.blockInts := by omega
        rw [hlen, Nat.mul_mod_left]
      · exact ih x hx

/-! ### The encoder's runs -/

/-- R91: the encoder's runs are the spans of the widths its promoter left at the source's values. -/
theorem spans_of_encodeBuffer {scope : PromoteScope} {se : Bool} {src : List Word} {r : Encoded}
    (h : encodeBuffer scope se src = .ok r) :
    ∃ widths : List Width, r.widths.take src.length = widths.map Width.bits ∧ Spans 0 widths r.runs := by
  unfold encodeBuffer at h
  split at h
  · cases h
  · split at h
    · cases h
    · rename_i widths hwidths
      cases h
      exact ⟨widths, toWidths_ok hwidths, spans_runsFrom widths 0⟩

/-- Settles O34: the runs are the spans of the promoted widths, and they tile the array by blocks. -/
theorem runsAreWholeBlocksButTheLast : Obligations.RunsAreWholeBlocksButTheLast := by
  intro scope se src r h
  obtain ⟨widths, htake, hspans⟩ := spans_of_encodeBuffer h
  obtain ⟨htiles, -⟩ := encodeBuffer_ok h
  obtain ⟨hlen, -, -⟩ := promotedWidthsCoverClassifiedWidths scope se src r h
  refine ⟨?_, fun i x hx => ?_, fun i x y hx hy => ?_, fun x hx i hlo hhi => ?_, htiles.whole_of_mem_dropLast⟩
  · have hcount := congrArg List.length htake
    rw [List.length_take, List.length_map, hlen] at hcount
    rw [hspans.sum_len]
    omega
  · simpa using hspans.start_eq hx
  · obtain ⟨hi, rfl⟩ := List.getElem?_eq_some_iff.mp hy
    obtain ⟨-, rfl⟩ := List.getElem?_eq_some_iff.mp hx
    exact List.isChain_iff_getElem.mp hspans.isChain i hi
  · have hwidth : widths[i]? = some x.width := (hspans.getElem?_eq hx).2 i hlo hhi
    have hentry : (r.widths.take src.length)[i]? = some x.width.bits := by
      rw [htake, List.getElem?_map, hwidth, Option.map_some]
    rw [List.getElem?_take, Option.ite_none_right_eq_some] at hentry
    rw [List.getD_eq_getElem?_getD, hentry.2, Option.getD_some]

end Sys2Proof.Machine
end

section
/-! PROOFS. The sizes of the encoder's buffer: R97's sums over the runs, and R98's bounds for an array of `n` values, which
an ENCODE of enough capacity never exceeds (R149). -/

namespace Sys2Proof.Machine

/-! ### The payload of a run -/

/-- R97: the payload bytes of a run: nothing at width 0, the values themselves at a direct width, whole blocks at a packed
one. -/
def Run.payloadBytes (x : Run) : Nat :=
  if x.width = .w0 then 0
  else if x.width = .w8 ∨ x.width = .w16 ∨ x.width = .w32 then x.len * (x.width.bits / 8)
  else x.blocks * x.width.blockBytes

theorem Run.payloadBytes_of_direct {x : Run} {bytes : Nat} (hk : x.width.kind = .direct bytes) :
    x.payloadBytes = bytes * x.len := by
  have hbits := direct_bits hk
  have hwidth : x.width ≠ .w0 ∧ (x.width = .w8 ∨ x.width = .w16 ∨ x.width = .w32) := by
    cases hw : x.width <;> simp [hw, Width.kind] at hk ⊢
  rw [Run.payloadBytes, if_neg hwidth.1, if_pos hwidth.2, hbits, Nat.mul_div_cancel_left _ (by omega), Nat.mul_comm]

/-- R69: a width that is not direct takes as many payload bytes for every block, width 0 none. -/
theorem Run.payloadBytes_of_not_direct {x : Run} (hk : ∀ bytes, x.width.kind ≠ .direct bytes) :
    x.payloadBytes = x.blocks * x.width.blockBytes := by
  have hwidth : ¬ (x.width = .w8 ∨ x.width = .w16 ∨ x.width = .w32) := by
    rintro (hw | hw | hw) <;> exact hk _ (by rw [hw]; rfl)
  rw [Run.payloadBytes, if_neg hwidth]
  split
  · rename_i hw
    rw [Width.blockBytes, kind_zero.mpr hw, Nat.mul_zero]
  · rfl

theorem bytesFor_of_not_direct {w : Width} (hk : ∀ bytes, w.kind ≠ .direct bytes) (r : Nat) :
    w.bytesFor r = w.blockBytes := by
  unfold Width.bytesFor Width.blockBytes
  split
  · rfl
  · rfl
  · exact absurd ‹_› (hk _)

/-- R96: blocks of a direct width take the bytes of the values inside the array. -/
theorem blocksPayload_length_of_direct {src : List Word} {w : Width} {bytes : Nat} (hk : w.kind = .direct bytes) :
    ∀ c b : Nat, (blocksPayload src w c b).length = bytes * min (c * w.blockInts) (src.length - b)
  | 0, b => by simp [blocksPayload]
  | c + 1, b => by
    rw [blocksPayload, List.length_append, packBlock_length, bytesFor_direct hk, blocksPayload_length_of_direct hk,
      ← Nat.mul_add, Nat.succ_mul]
    congr 1
    omega

theorem blocksPayload_length_of_not_direct {src : List Word} {w : Width} (hk : ∀ bytes, w.kind ≠ .direct bytes) :
    ∀ c b : Nat, (blocksPayload src w c b).length = c * w.blockBytes
  | 0, b => by simp [blocksPayload]
  | c + 1, b => by
    rw [blocksPayload, List.length_append, packBlock_length, bytesFor_of_not_direct hk,
      blocksPayload_length_of_not_direct hk, Nat.succ_mul, Nat.add_comm]

/-- R97: the payload length of a run whose blocks reach just its end inside the array. -/
theorem runPayload_length {src : List Word} {x : Run}
    (hend : min (x.start + x.blocks * x.width.blockInts) src.length = x.start + x.len) :
    (runPayload src x).length = x.payloadBytes := by
  rw [runPayload_eq]
  by_cases hk : ∃ bytes, x.width.kind = .direct bytes
  · obtain ⟨bytes, hk⟩ := hk
    rw [blocksPayload_length_of_direct hk, Run.payloadBytes_of_direct hk]
    congr 1
    omega
  · rw [blocksPayload_length_of_not_direct (not_exists.mp hk), Run.payloadBytes_of_not_direct (not_exists.mp hk)]

/-- R97: one selector for every 16 blocks of a run, and one for the blocks left. -/
theorem runSelectors_length (x : Run) : (runSelectors x).length = (x.blocks + 15) / 16 := by
  rw [runSelectors, List.length_map, selectorCounts_eq (le_refl _), List.length_append, List.length_replicate]
  split
  · rw [List.length_nil]
    omega
  · rw [List.length_singleton]
    omega

theorem Tiles.end_of_mem {src : List Word} {b : Nat} {l : List Run} (h : Tiles src b l) :
    ∀ x ∈ l, min (x.start + x.blocks * x.width.blockInts) src.length = x.start + x.len := by
  induction h with
  | done => simp
  | run _ hend _ _ ih => exact List.forall_mem_cons.mpr ⟨hend, ih⟩

/-- Settles O35: the encoder's runs tile the array, so each emits the payload and the selectors of its formula. -/
theorem payloadAndSelectorSizes : Obligations.PayloadAndSelectorSizes := by
  intro scope se src r h
  obtain ⟨htiles, hpayload, hsels, -, -⟩ := encodeBuffer_ok h
  constructor
  · rw [hpayload, List.length_flatMap, List.map_congr_left fun x hx => runPayload_length (htiles.end_of_mem x hx)]
    rfl
  · rw [hsels, List.length_flatMap, funext runSelectors_length]
    rfl

/-! ### The bounds -/

/-- R98: no full block stores more than 4 bytes for each of its values, nor more than 32 bytes. -/
theorem blockBytes_le (w : Width) : w.blockBytes ≤ 4 * w.blockInts ∧ w.blockBytes ≤ 32 := by cases w <;> decide

theorem direct_bytes_le {w : Width} {bytes : Nat} (hk : w.kind = .direct bytes) : bytes ≤ 4 := by
  have hbits : w.bits ≤ 32 := by cases w <;> decide
  rw [direct_bits hk] at hbits
  omega

/-- R98: a run's payload is at most 4 bytes for each position of its blocks; only the last block can take bytes for
positions that the run does not have, at most 32 of them. -/
theorem Run.payloadBytes_le (x : Run) :
    x.payloadBytes ≤ 4 * (x.blocks * x.width.blockInts) ∧ x.payloadBytes ≤ 4 * x.len + 32 := by
  obtain ⟨hreach, hlast⟩ := x.blocks_bounds
  by_cases hk : ∃ bytes, x.width.kind = .direct bytes
  · obtain ⟨bytes, hk⟩ := hk
    have hlen := Nat.mul_le_mul_right x.len (direct_bytes_le hk)
    rw [Run.payloadBytes_of_direct hk]
    omega
  · rw [Run.payloadBytes_of_not_direct (not_exists.mp hk)]
    obtain ⟨hper, hB⟩ := blockBytes_le x.width
    have hall := Nat.mul_le_mul_left x.blocks hper
    have hbut := Nat.mul_le_mul_left (x.blocks - 1) hper
    rw [Nat.mul_left_comm] at hall hbut
    rw [Nat.sub_one_mul, Nat.sub_one_mul] at hbut
    omega

/-- R98: the payload of runs that tile the array from position `b` on: all but the last are whole blocks. -/
theorem Tiles.payload_length_le {src : List Word} {b : Nat} {l : List Run} (h : Tiles src b l) :
    (l.flatMap (runPayload src)).length ≤ 4 * (src.length - b) + 32 := by
  induction h with
  | done => simp
  | @run x l _ hend _ hl ih =>
    obtain ⟨hwhole, hcut⟩ := x.payloadBytes_le
    rw [List.flatMap_cons, List.length_append, runPayload_length hend]
    rcases eq_or_ne l [] with rfl | hne
    · rw [List.flatMap_nil, List.length_nil]
      omega
    · have hinside := hl.lt_length_of_ne_nil hne
      omega

/-- R98: selectors that cover the array from position `b` on are at most one for every 4 positions: every block covers at
least 4, and only the last can be partial. -/
theorem Selects.four_mul_length_le {src : List Word} {b : Nat} {l : List (Width × Nat)} (h : Selects src b l) :
    b + 4 * l.length ≤ max b (src.length + 3) := by
  induction h with
  | done => simp
  | @selector b c w l hc _ hlast _ _ ih =>
    have hmul := Nat.mul_le_mul_right w.blockInts hc
    have hN := blockInts_pos w
    rw [List.length_cons]
    omega

/-- R98: the selector count. -/
theorem sels_length_le {scope : PromoteScope} {se : Bool} {src : List Word} {r : Encoded}
    (h : encodeBuffer scope se src = .ok r) : r.sels.length ≤ (src.length + 3) / 4 := by
  obtain ⟨l, hselects, -, hsels, -⟩ := encodeBuffer_layout h
  have hlen := hselects.four_mul_length_le
  rw [hsels, List.length_map]
  omega

/-- R98: the payload length. -/
theorem payload_length_le {scope : PromoteScope} {se : Bool} {src : List Word} {r : Encoded}
    (h : encodeBuffer scope se src = .ok r) : r.payload.length ≤ 4 * src.length + 32 := by
  obtain ⟨htiles, hpayload, -⟩ := encodeBuffer_ok h
  rw [hpayload]
  exact htiles.payload_length_le

/-- Settles O36: the bounds on the selectors and the payload, with 6 bytes of padding and 5 of trailer at most. -/
theorem compressedSizeBounds : Obligations.CompressedSizeBounds := by
  intro scope se src r h
  have hK := sels_length_le h
  have hS := payload_length_le h
  obtain ⟨-, hP, hT, -, hT5, hV, hL, -⟩ := compressedBufferLayout scope se src r h
  exact ⟨hK, hS, hP, by omega, by omega, by omega, by omega, fun hn => by omega⟩

/-! ### ENCODE -/

theorem length_sourceWords (s : State) : (sourceWords s).length = s.sl.toNat := by
  rw [sourceWords, List.length_map, List.length_range]

/-- R149, R146: the completion of an admitted ENCODE whose ranges answer and whose buffer fits, whatever the form memory is
in: `writeAll_buffer` asks nothing of it. -/
theorem exec_cmdEncode_of_fits {s : State} {r : Encoded} (hadm : EncodeAdmitted s)
    (hr : NoBusErr s.params (wordSource s)) (hd : NoBusErr s.params (encodeDest s))
    (hbuf : encodeBuffer s.params.promoteScope s.se (sourceWords s) = .ok r) (hfits : r.bytes.length ≤ s.dl.toNat) :
    ∃ u, exec .cmdEncode s = .next (complete u (r.bytes.length / 4) r.payload.length) ∧ u.err = s.err := by
  obtain ⟨u, hu, -⟩ := writeAll_buffer hadm hd hfits
  obtain ⟨hrest, -, -⟩ := writeAll_ok hu
  refine ⟨u, ?_, by rw [hrest, withEncodeScratch_err]⟩
  change finish encodeDest (runEncode s) = _
  rw [runEncode_eq_andThen, planEncode_of_admitted hadm hr hbuf, if_neg (not_lt.mpr hfits), andThen_ok, hu, andThen_ok,
    finish_ok]

/-- Settles O31: the encoder always makes a buffer, and one within R98's bounds fits. -/
theorem encodeCompletesWithinTheSizeBound : Obligations.EncodeCompletesWithinTheSizeBound := by
  intro s hadm hr hd _ hcap
  obtain ⟨r, hbuf⟩ := encodeBuffer_answers s.params.promoteScope s.se (sourceWords s)
  obtain ⟨-, hS, -, -, -, -, hL, -⟩ := compressedSizeBounds _ _ _ _ hbuf
  rw [length_sourceWords] at hS hL
  obtain ⟨u, hexec, herr⟩ := exec_cmdEncode_of_fits hadm hr hd hbuf (hL.trans hcap)
  have h0 : (BitVec.ofNat 32 (r.bytes.length / 4)).toNat ≤ r.bytes.length / 4 := Nat.mod_le _ _
  have h1 : (BitVec.ofNat 32 r.payload.length).toNat ≤ r.payload.length := Nat.mod_le _ _
  refine ⟨_, hexec, rfl, complete_done _ _ _, herr, ?_, ?_⟩
  · rw [complete_result0]
    omega
  · rw [complete_result1]
    exact h1.trans hS

end Sys2Proof.Machine
end

section
/-! PROOFS. The engine's turn: the instruction it fetches, and the errors that end DECODE at a fetch (R115, R117, R118,
R145, R156). -/

namespace Sys2Proof.Machine

/-! ### What a turn fetches -/

/-- R145: the engine's step for a started command. -/
theorem step_started {s : State} (hmoves : EngineMoves s) (hphase : s.phase = .started) :
    step s = (fetchCommand (afterTurn s)).outcome := by
  rw [step_eq_outcome, nextTurn_engine hmoves, engineTurn, afterTurn_phase, hphase]

/-- R115: the engine's step in the selector loop. -/
theorem step_unpack {s : State} (hmoves : EngineMoves s) (hphase : s.phase = .unpack) :
    step s = (fetchSelector (afterTurn s)).outcome := by
  rw [step_eq_outcome, nextTurn_engine hmoves, engineTurn, afterTurn_phase, hphase]

theorem fetchCommand_of_ok {s : State} {i : Instr} (h : decodeCommand s.op = .ok i) : fetchCommand s = .run i s := by
  rw [fetchCommand, h]

section FetchSelector
variable {s : State}

/-- R117: no selector stands at the trailer. -/
theorem fetchSelector_at_trailer (hoc : s.oc < s.dl.toNat) (hsc : s.bufLen - s.trlLen ≤ s.sc) :
    fetchSelector s = .answer (.next (raiseError s (decodeDest s) .selectorOverrun s.sc)) := by
  rw [fetchSelector, if_neg (not_le.mpr hoc), if_pos hsc]

/-- R156: the selector byte answers with a bus error. -/
theorem fetchSelector_busError (hoc : s.oc < s.dl.toNat) (hsc : s.sc < s.bufLen - s.trlLen)
    (hex : s.sa.toNat + s.sc < 2 ^ 32) (hbus : busErrAt s.params (s.sa.toNat + s.sc) = true) :
    fetchSelector s = .answer (.next (raiseError s (decodeDest s) .busError (s.sa.toNat + s.sc))) := by
  rw [fetchSelector, if_neg (not_le.mpr hoc), if_neg (not_le.mpr hsc),
    memRead_busError (n := 1) hex ⟨0, Nat.one_pos, hbus⟩]
  rfl

/-- R115, R64: the selector byte that answers is decoded and run. -/
theorem fetchSelector_of_ok {i : Instr} (hoc : s.oc < s.dl.toNat) (hsc : s.sc < s.bufLen - s.trlLen)
    (hex : s.sa.toNat + s.sc < 2 ^ 32) (hbus : busErrAt s.params (s.sa.toNat + s.sc) = false)
    (h : decodeSelector (Memory.read s.mem (s.sa.toNat + s.sc)) = .ok i) : fetchSelector s = .run i s := by
  rw [fetchSelector, if_neg (not_le.mpr hoc), if_neg (not_le.mpr hsc), memRead_byte hex hbus]
  simp only [BitVec.ofNat_toNat, BitVec.setWidth_eq, h]

/-- R118: the selector byte that answers names no width. -/
theorem fetchSelector_reserved {r : DecodeReject} (hoc : s.oc < s.dl.toNat) (hsc : s.sc < s.bufLen - s.trlLen)
    (hex : s.sa.toNat + s.sc < 2 ^ 32) (hbus : busErrAt s.params (s.sa.toNat + s.sc) = false)
    (h : decodeSelector (Memory.read s.mem (s.sa.toNat + s.sc)) = .error r) :
    fetchSelector s = .answer (.next (raiseError s (decodeDest s) .badSelector s.sc)) := by
  rw [fetchSelector, if_neg (not_le.mpr hoc), if_neg (not_le.mpr hsc), memRead_byte hex hbus]
  simp only [BitVec.ofNat_toNat, BitVec.setWidth_eq, h]

end FetchSelector

/-- Settles O7: the turn's fetch decodes the bytes of the latched word, or the byte at the selector cursor. -/
theorem stepRunsTheDecodedInstruction : Obligations.StepRunsTheDecodedInstruction := by
  refine ⟨fun s i hmoves hphase hi => ?_, fun s i hmoves hphase hoc hsc hex hbus hi => ?_⟩
  · have hfetch : decodeCommand (afterTurn s).op = .ok i := by
      rw [afterTurn_op, ← decode_commandBytes]
      exact hi
    rw [step_started hmoves hphase, fetchCommand_of_ok hfetch, Turn.outcome]
  · rw [step_unpack hmoves hphase, fetchSelector_of_ok (i := i), Turn.outcome]
    all_goals simp only [afterTurn_oc, afterTurn_dl, afterTurn_sc, afterTurn_bufLen, afterTurn_trlLen, afterTurn_sa,
      afterTurn_params, afterTurn_mem]
    exacts [hoc, hsc, hex, hbus, hi]

/-! ### The errors of a fetch -/

@[simp] theorem decodeDest_afterTurn (s : State) : decodeDest (afterTurn s) = decodeDest s := by
  rw [decodeDest, decodeDest, afterTurn_da, afterTurn_dl]

/-- R155: an error completion changes no byte if the command has written none, and none outside its destination range. -/
theorem read_raiseError_kept {s : State} {d : Range} {e : ErrCode} {info a : Nat} (h : s.wrote = false ∨ ¬ d.mem a) :
    Memory.read (raiseError s d e info).mem a = Memory.read s.mem a := by
  rcases h with hunwritten | hout
  · rw [raiseError_unwritten hunwritten]
    rfl
  · exact read_raiseError_outside hout

/-- R155: what a turn that raises an error of DECODE leaves. -/
theorem step_raises {s : State} {e : ErrCode} {info : Nat}
    (h : step s = .next (raiseError (afterTurn s) (decodeDest (afterTurn s)) e info)) : ∃ t, step s = .next t ∧
      t = { afterTurn s with errcode := e.code, errinfo := BitVec.ofNat 32 info, err := true, phase := .idle,
                             freeCtr := s.freeCtr + 1, mem := t.mem } ∧
      ∀ a, (s.wrote = false ∨ ¬ (decodeDest s).mem a) → Memory.read t.mem a = Memory.read s.mem a := by
  refine ⟨_, h, ?_, fun a ha => ?_⟩
  · rw [← afterTurn_freeCtr s]
    rfl
  · rw [← afterTurn_wrote, ← decodeDest_afterTurn] at ha
    rw [read_raiseError_kept ha, afterTurn_mem]

/-- Settles O9: the cursor at the trailer, a byte of TYPE 15, and a byte that does not answer. -/
theorem selectorFetchErrors : Obligations.SelectorFetchErrors := by
  intro s hmoves hphase hoc
  have hstep := step_unpack hmoves hphase
  rw [← afterTurn_oc s, ← afterTurn_dl s] at hoc
  rw [← afterTurn_sc s, ← afterTurn_bufLen s, ← afterTurn_trlLen s, ← afterTurn_sa s, ← afterTurn_params s]
  refine ⟨fun hsc => ?_, fun hsc hex hbus hbyte => ?_, fun hsc hex hbus => ?_⟩
  · rw [fetchSelector_at_trailer hoc hsc] at hstep
    exact step_raises hstep
  · rw [← afterTurn_mem s] at hbyte
    rw [fetchSelector_reserved hoc hsc hex hbus (decodeSelector_of_reserved hbyte)] at hstep
    exact step_raises hstep
  · rw [fetchSelector_busError hoc hsc hex hbus] at hstep
    exact step_raises hstep

end Sys2Proof.Machine
end

section
/-! PROOFS. A packed selector whose payload and outputs answer runs to its end (R124 to R130, R132 to R134, R136). -/

namespace Sys2Proof.Machine

/-- Settles O46: the general selector that can run to its end, of whatever kind its width is. -/
theorem packedSelectorsComplete : Obligations.PackedSelectorsComplete :=
  fun _ _ _ _ _ h => exec_sel_of_canUnpack h.canUnpack

end Sys2Proof.Machine
end

section
/-! PROOFS. A block whose payload would pass the selector start ends DECODE: nothing of it is read or written, and the blocks
before it were unpacked (R119, R154, R155). -/

namespace Sys2Proof.Machine

/-! ### The overrun -/

/-- R119: a block whose payload would pass the selector start. -/
theorem unpackBlock_overrun {w : Width} {r : Nat} {s : State} (hw : w ≠ .w0)
    (h : s.selStart < s.pp + w.bytesFor r) : unpackBlock w r s = .error (.raise s .payloadOverrun s.pp) := by
  cases hk : w.kind with
  | zero => exact absurd (kind_zero.mp hk) hw
  | packed units =>
    rw [bytesFor_packed hk, ← blockBytes_packed hk] at h
    rw [unpackBlock_packed_eq hk, if_pos h]
  | direct bytes =>
    rw [bytesFor_direct hk] at h
    rw [unpackBlock_direct_eq hk, if_pos h]

/-- R115, R119: the blocks of a selector end at an overrun of the next one. -/
theorem unpackBlocks_overrun {w : Width} {c : Nat} {s : State} (hw : w ≠ .w0) (hc : 0 < c) (hoc : s.oc < s.dl.toNat)
    (h : s.selStart < s.pp + w.bytesFor (min w.blockInts (s.dl.toNat - s.oc))) :
    unpackBlocks w c s = .error (.raise s .payloadOverrun s.pp) := by
  obtain ⟨c, rfl⟩ := Nat.exists_eq_succ_of_ne_zero hc.ne'
  rw [unpackBlocks_succ, if_neg (not_le.mpr hoc), unpackBlock_overrun hw h, andThen_error]

/-- R115, R155: a selector ends DECODE with the error its blocks end with. -/
theorem exec_sel_of_error {w : Width} {count info : Nat} {s u : State} {e : ErrCode}
    (h : unpackBlocks w count s = .error (.raise u e info)) :
    exec (Instr.sel w count) s = .next (raiseError u (decodeDest u) e info) := by
  rw [exec_sel, execSelector, runSelector_eq_andThen, h, andThen_error, finish_raise]

/-! ### The blocks before it -/

/-- R12: the access lies within `[lo, hi)`. -/
def Access.Within (lo hi : Nat) (y : Access) : Prop := lo ≤ y.addr ∧ y.addr + y.size ≤ hi

theorem Access.Within.mono {lo hi lo' hi' : Nat} {y : Access} (h : y.Within lo hi) (hlo : lo' ≤ lo) (hhi : hi ≤ hi') :
    y.Within lo' hi' :=
  ⟨hlo.trans h.1, h.2.trans hhi⟩

theorem Access.Within.answers {p : Params} {lo hi : Nat} {y : Access} (h : y.Within lo hi) (hr : NoBusErr p ⟨lo, hi⟩) :
    y.Answers p := fun i hi => by
  obtain ⟨hlo, hhi⟩ := h
  exact hr _ ⟨by simp only; omega, by simp only; omega⟩

/-- Consecutive accesses lie within the bytes they cover. -/
theorem consecutive_within {n a k : Nat} {write : Bool} {y : Access} (h : y ∈ consecutive n write a k) :
    y.Within a (a + n * k) := by
  obtain ⟨i, hi, rfl⟩ := List.mem_map.mp h
  have := Nat.mul_le_mul_left n (show i + 1 ≤ k from List.mem_range.mp hi)
  rw [Nat.mul_succ] at this
  exact ⟨by simp only; omega, by simp only; omega⟩

/-- R123 to R137: a block's accesses lie within its payload and its outputs. -/
theorem blockAccesses_within {w : Width} {r src dst : Nat} {y : Access} (h : y ∈ blockAccesses w r src dst) :
    y.Within src (src + w.bytesFor r) ∨ y.Within dst (dst + 4 * r) := by
  cases hk : w.kind with
  | zero =>
    simp only [blockAccesses, hk] at h
    exact .inr (consecutive_within h)
  | packed units =>
    simp only [blockAccesses, hk, List.mem_append] at h
    rcases h with h | h
    · obtain ⟨l, hl, h⟩ := List.mem_flatMap.mp h
      obtain ⟨u, hu, rfl⟩ := List.mem_map.mp h
      have hl := List.mem_range.mp hl
      have hu := List.mem_range.mp hu
      rw [bytesFor_packed hk]
      exact .inl ⟨by simp only; omega, by simp only; omega⟩
    · exact .inr (consecutive_within h)
  | direct bytes =>
    simp only [blockAccesses, hk] at h
    obtain ⟨j, hj, h⟩ := List.mem_flatMap.mp h
    rw [bytesFor_direct hk]
    rcases List.mem_pair.mp h with rfl | rfl
    · exact .inl (consecutive_within (List.mem_map.mpr ⟨j, hj, rfl⟩))
    · exact .inr (consecutive_within (List.mem_map.mpr ⟨j, hj, rfl⟩))

/-- R123 to R137: a block of at least one value writes. -/
theorem blockAccesses_any_write {w : Width} {r : Nat} (hr : 0 < r) (src dst : Nat) :
    (blockAccesses w r src dst).any Access.write = true := by
  obtain ⟨r, rfl⟩ := Nat.exists_eq_succ_of_ne_zero hr.ne'
  cases hk : w.kind <;> simp [blockAccesses, hk, List.range_succ]

/-- R115: a selector's accesses are its first block's and those of the blocks after it, from where that block ends. -/
theorem selectorAccesses_succ {w : Width} {c : Nat} {s : State} (hoc : s.oc < s.dl.toNat) {r : Nat}
    (hr : min w.blockInts (s.dl.toNat - s.oc) = r) : selectorAccesses w (c + 1) s =
      blockAccesses w r (s.sa.toNat + s.pp) (s.da.toNat + 4 * s.oc) ++
        selectorAccesses w c (advance s s.mem s.wrote (w.bytesFor r) r) := by
  rw [(afterBlock_advance w s s.mem s.wrote hr).selectorAccesses hoc, hr]

/-- R115, R119: a selector's accesses lie within its payload and its outputs. -/
theorem selectorAccesses_within {w : Width} {y : Access} : ∀ {c : Nat} {s : State}, y ∈ selectorAccesses w c s →
    y.Within (s.sa.toNat + s.pp) (s.sa.toNat + s.pp + selectorBytes w c s) ∨
      y.Within (s.da.toNat + 4 * s.oc) (s.da.toNat + 4 * (s.oc + selectorOutputs w c s))
  | 0, s, h => by
    rw [selectorAccesses_zero (by simp [selectorOutputs])] at h
    cases h
  | c + 1, s, h => by
    by_cases hoc : s.oc < s.dl.toNat
    · generalize hr : min w.blockInts (s.dl.toNat - s.oc) = r
      have hafter := afterBlock_advance w s s.mem s.wrote hr
      rw [selectorAccesses_succ hoc hr] at h
      rw [hafter.selectorBytes hoc, selectorOutputs_succ hafter.dl hafter.oc, hr]
      rcases List.mem_append.mp h with h | h
      · exact (blockAccesses_within h).imp (·.mono (le_refl _) (by omega)) (·.mono (le_refl _) (by omega))
      · refine (selectorAccesses_within h).imp (·.mono ?_ ?_) (·.mono ?_ ?_)
        all_goals simp only [advance_sa, advance_da, advance_pp, advance_oc]; omega
    · rw [selectorAccesses_zero (by simp [selectorOutputs, Nat.sub_eq_zero_of_le (not_lt.mp hoc)])] at h
      cases h

theorem selectorAccesses_any_write {w : Width} {c : Nat} {s : State} (hc : 0 < c) (hoc : s.oc < s.dl.toNat) :
    (selectorAccesses w c s).any Access.write = true := by
  obtain ⟨c, rfl⟩ := Nat.exists_eq_succ_of_ne_zero hc.ne'
  have hN := blockInts_pos w
  rw [selectorAccesses_succ hoc rfl, List.any_append, blockAccesses_any_write (by omega), Bool.true_or]

/-- R119: blocks that run to their end consume the selector's payload. -/
theorem unpackBlocks_pp {w : Width} : ∀ {c : Nat} {s t : State}, unpackBlocks w c s = .ok t →
    t.pp = s.pp + selectorBytes w c s
  | 0, s, t, h => by
    cases h
    rw [selectorBytes_zero (by simp [selectorOutputs]), Nat.add_zero]
  | c + 1, s, t, h => by
    rw [unpackBlocks_succ] at h
    split at h
    case isTrue hdone =>
      cases h
      rw [selectorBytes_zero (by simp [selectorOutputs, Nat.sub_eq_zero_of_le hdone]), Nat.add_zero]
    case isFalse hmore =>
      cases hu : unpackBlock w (min w.blockInts (s.dl.toNat - s.oc)) s with
      | error e => rw [hu, andThen_error] at h; cases h
      | ok u =>
        have hafter := afterBlock_of_unpackBlock hu
        rw [hu, andThen_ok] at h
        rw [unpackBlocks_pp h, hafter.selectorBytes (not_le.mp hmore), hafter.pp, Nat.add_assoc]

/-- R115, R119, R156: the blocks of a selector whose payload lies below the selector start and whose accesses exist and
answer run to their end. -/
theorem unpackBlocks_of_answers {w : Width} {c : Nat} {s : State} (hoc : s.oc ≤ s.dl.toNat)
    (hfit : s.pp + selectorBytes w c s ≤ s.selStart) (hall : ∀ y ∈ selectorAccesses w c s, y.Answers s.params)
    (hex : AccessesExist (selectorAccesses w c s)) : ∃ t, unpackBlocks w c s = .ok t ∧ UnpackedOnly s t ∧
      t.pp = s.pp + selectorBytes w c s ∧ t.oc = s.oc + selectorOutputs w c s ∧
      t.wrote = (s.wrote || (selectorAccesses w c s).any Access.write) := by
  obtain ⟨t, ht, htouched⟩ := (performs_unpackBlocks (fun _ => hfit) hex).ok hall
  rcases unpackBlocks_cases w c s hoc with ⟨t', h, honly, hcount, -⟩ | ⟨_, _, _, h, -⟩ | ⟨-, h⟩ <;> rw [ht] at h <;> cases h
  exact ⟨t, ht, honly, unpackBlocks_pp ht, hcount, htouched.wrote⟩

/-! ### Whole blocks -/

theorem selectorOutputs_whole {w : Width} {k : Nat} {s : State} (h : s.oc + k * w.blockInts ≤ s.dl.toNat) :
    selectorOutputs w k s = k * w.blockInts :=
  Nat.min_eq_left (by omega)

theorem selectorBytes_whole {w : Width} {k : Nat} {s : State} (h : s.oc + k * w.blockInts ≤ s.dl.toNat) :
    selectorBytes w k s = k * w.blockBytes := by
  have hN := blockInts_pos w
  have hcount : (k * w.blockInts + w.blockInts - 1) / w.blockInts = k := by
    rw [Nat.add_sub_assoc (by omega), Nat.mul_comm, Nat.mul_add_div (by omega), Nat.div_eq_of_lt (by omega), Nat.add_zero]
  cases hk : w.kind with
  | zero => simp only [selectorBytes, Width.blockBytes, hk, Nat.mul_zero]
  | packed units => simp only [selectorBytes, hk, selectorOutputs_whole h, hcount, blockBytes_packed hk]
  | direct bytes =>
    simp only [selectorBytes, hk, selectorOutputs_whole h, ← blockBytes_eq, bytesFor_direct hk]
    ring

/-- R115, R119, R156: whole blocks whose payload lies below the selector start and whose payload and outputs exist and
answer run to their end. They need not be apart. -/
theorem unpackBlocks_whole {w : Width} {k : Nat} {s : State} (hk : 0 < k) (hoc : s.oc + k * w.blockInts ≤ s.dl.toNat)
    (hfit : s.pp + k * w.blockBytes ≤ s.selStart) (hsrc : s.sa.toNat + s.selStart ≤ 2 ^ 32)
    (hdst : s.da.toNat + 4 * s.dl.toNat ≤ 2 ^ 32)
    (hra : NoBusErr s.params ⟨s.sa.toNat + s.pp, s.sa.toNat + s.pp + k * w.blockBytes⟩)
    (hwa : NoBusErr s.params ⟨s.da.toNat + 4 * s.oc, s.da.toNat + 4 * (s.oc + k * w.blockInts)⟩) :
    ∃ u, unpackBlocks w k s = .ok u ∧ UnpackedOnly s u ∧ u.pp = s.pp + k * w.blockBytes ∧
      u.oc = s.oc + k * w.blockInts ∧ u.wrote = true := by
  have hstarts : s.oc < s.dl.toNat := by
    have := Nat.mul_pos hk (show 0 < w.blockInts by have := blockInts_pos w; omega)
    omega
  have hwithin := fun y => selectorAccesses_within (w := w) (y := y) (c := k) (s := s)
  rw [selectorBytes_whole hoc, selectorOutputs_whole hoc] at hwithin
  obtain ⟨u, hu, honly, hpp, hcursor, hwrote⟩ := unpackBlocks_of_answers (w := w) (c := k) hstarts.le
    (by rwa [selectorBytes_whole hoc])
    (fun y hy => (hwithin y hy).elim (·.answers hra) (·.answers hwa))
    (fun y hy => (hwithin y hy).elim (fun h => h.2.trans (by omega)) (fun h => h.2.trans (by omega)))
  rw [selectorBytes_whole hoc] at hpp
  rw [selectorOutputs_whole hoc] at hcursor
  rw [selectorAccesses_any_write hk hstarts, Bool.or_true] at hwrote
  exact ⟨u, hu, honly, hpp, hcursor, hwrote⟩

/-! ### The error completion after them -/

/-- R155: an error that ends DECODE part way through a selector: beside memory, the cursors and the note that it wrote,
it leaves what an error before the selector leaves. -/
theorem UnpackedOnly.raiseError_eq {s u : State} (h : UnpackedOnly s u) (d : Range) (e : ErrCode) (info : Nat) :
    raiseError u d e info = { failedUnwritten s e info with
      mem := (raiseError u d e info).mem, wrote := u.wrote, pp := u.pp, oc := u.oc } := by
  rw [raiseError_eq_failedUnwritten]
  generalize (raiseError u d e info).mem = m
  rw [h.rest]
  rfl

/-- R155: an error that ends DECODE after blocks that wrote: every byte of the destination range becomes a free value, and
every other one is as it was before them. -/
theorem UnpackedOnly.read_raiseError {s u : State} (h : UnpackedOnly s u) (hwrote : u.wrote = true)
    (hm : Memory.wf s.mem = true) (hdst : s.da.toNat + 4 * s.dl.toNat ≤ 2 ^ 32) (e : ErrCode) (info : Nat) :
    (∀ a, (decodeDest s).mem a →
      Memory.read (raiseError u (decodeDest u) e info).mem a = Config.freeByte s.freeCtr a) ∧
    ∀ a, ¬ (decodeDest s).mem a → Memory.read (raiseError u (decodeDest u) e info).mem a = Memory.read s.mem a := by
  have hdest : decodeDest u = decodeDest s := by rw [h.rest]; rfl
  have hctr : u.freeCtr = s.freeCtr := by rw [h.rest]
  rw [hdest]
  refine ⟨fun a ha => ?_, fun a ha => ?_⟩
  · rw [read_raiseError_inside hwrote (h.wf hm) ha (ha.2.trans_le hdst), hctr]
  · rw [read_raiseError_outside ha]
    simp only [decodeDest, Range.mem, not_and, not_lt] at ha
    exact h.frame a (by omega)

/-- Settles O48: the first block's bound fails before it is touched; a later block's fails after the whole blocks before
it, which ran to their end. -/
theorem payloadOverrunEndsDecode : Obligations.PayloadOverrunEndsDecode := by
  intro w count s hw
  refine ⟨fun hcount hoc hover => exec_sel_of_error (unpackBlocks_overrun hw hcount hoc hover),
    fun k hk hlt hoc hfit hover hsrc hdst hm hra hwa => ?_⟩
  obtain ⟨u, hu, honly, hpp, hcursor, hwrote⟩ := unpackBlocks_whole hk hoc.le hfit hsrc hdst hra hwa
  have hdl : u.dl = s.dl := by rw [honly.rest]
  have hstart : u.selStart = s.selStart := by rw [honly.rest]
  have hend : unpackBlocks w count s = .error (.raise u .payloadOverrun u.pp) := by
    rw [← Nat.add_sub_cancel' hlt.le, unpackBlocks_add, hu, andThen_ok]
    exact unpackBlocks_overrun hw (Nat.sub_pos_of_lt hlt) (by rwa [hcursor, hdl]) (by rwa [hstart, hpp, hdl, hcursor])
  refine ⟨_, exec_sel_of_error hend, ?_, honly.read_raiseError hwrote hm hdst _ _⟩
  rw [← hpp, ← hcursor, ← hwrote]
  exact honly.raiseError_eq (decodeDest u) .payloadOverrun u.pp

end Sys2Proof.Machine
end

section
/-! PROOFS. VBYTE_DEC and DECODE after the backward decoder: the value found, or the trailer rejected (R141, R142, R144,
R150, R153). -/

namespace Sys2Proof.Machine

/-- Settles O28, by the backward scan over the encoder's bytes. -/
theorem trailerRoundTrip : Obligations.TrailerRoundTrip := fun _ _ _ _ hv hlen hex hr hb =>
  vbyteDec_of_bytesAt hv hlen hex hr hb

/-! ### VBYTE_DEC -/

/-- R153: the range check is VBYTE_DEC's only one. -/
theorem vbyteDecChecks_of_le {s : State} (hex : s.sa.toNat + s.sl.toNat ≤ 2 ^ 32) : vbyteDecChecks s = none :=
  if_neg (rangeWraps_iff.not.mpr (not_lt.mpr hex))

/-- Settles O26: the backward decoder finds the trailer, and its value and length are the results. -/
theorem vbyteDecCompletesOnATrailer : Obligations.VbyteDecCompletesOnATrailer := by
  intro s t hex hr htrailer hv
  change finish noDest (runVbyteDec s) = _
  rw [runVbyteDec_eq_andThen s (vbyteDecChecks_of_le hex), vbyteDec_of_trailerAt htrailer hex hr hv, andThen_ok, finish_ok]
  rfl

/-! ### DECODE -/

/-- R156: in a range that answers, the scan over low bytes meets no bus error. -/
theorem lowBytes_of_noBusErr {s : State} {base len k : Nat} (hex : base + len ≤ 2 ^ 32)
    (hr : NoBusErr s.params ⟨base, base + len⟩) (hk : k ≤ len)
    (hlow : ∀ i, len - k ≤ i → i < len → (Memory.read s.mem (base + i)).toNat < 128) : LowBytes s base len k where
  exist := hex
  answers j hj := hr _ ⟨by simp only; omega, by simp only; omega⟩
  low j hj := hlow _ (by omega) (by omega)

/-- R150, R155: an error before the selector loop, where DECODE has written nothing. -/
theorem exec_cmdDecode_of_error {s : State} {e : ErrCode} {info : Nat} (hw : s.wrote = false)
    (h : runDecode s = .error (.raise s e info)) : exec .cmdDecode s = .next (failedUnwritten s e info) := by
  change finish decodeDest (runDecode s) = _
  rw [h, finish_raise_unwritten hw]

/-- R141, R150: DECODE ends with the error of its trailer. -/
theorem runDecode_of_vbyteDec_error {s : State} {e : Stop} (hadm : DecodeAdmitted s)
    (h : vbyteDec s s.sa.toNat (4 * s.sl.toNat) = .error e) : runDecode s = .error e := by
  rw [runDecode_eq_andThen s (decodeChecks_of_admitted hadm), h, andThen_error]

/-- R142: the trailer's value is the length of all that follows the payload, so it is no less than the trailer's own length
and no more than the buffer's. -/
theorem runDecode_of_misplaced {s : State} {v t : Nat} (hadm : DecodeAdmitted s)
    (h : vbyteDec s s.sa.toNat (4 * s.sl.toNat) = .ok (v, t)) :
    (v < t → runDecode s = .error (.raise s .badTrailer 4)) ∧
    (t ≤ v → 4 * s.sl.toNat < v → runDecode s = .error (.raise s .badTrailer 5)) := by
  rw [runDecode_eq_andThen s (decodeChecks_of_admitted hadm), h, andThen_ok]
  exact ⟨fun hlt => if_pos hlt, fun hle hlong => by rw [if_neg (not_lt.mpr hle), if_pos hlong]⟩

/-- Settles O44: the backward decoder's three ways to find no trailer, then DECODE's two bounds on the value it found. -/
theorem decodeRejectsMisplacedSelectorStart : Obligations.DecodeRejectsMisplacedSelectorStart := by
  intro s hadm hw hr
  have hex := hadm.srcLegal
  refine ⟨fun hlen hlow => ?_, fun hlen hlow => ?_, fun t ht => ⟨fun hv => ?_, fun hv => ?_⟩⟩
  · exact exec_cmdDecode_of_error hw (runDecode_of_vbyteDec_error hadm
      (vbyteDec_unterminated (lowBytes_of_noBusErr hex hr hlen hlow) hlen))
  · exact exec_cmdDecode_of_error hw (runDecode_of_vbyteDec_error hadm
      (vbyteDec_short (lowBytes_of_noBusErr hex hr le_rfl fun i _ => hlow i) hlen))
  · exact exec_cmdDecode_of_error hw (runDecode_of_vbyteDec_error hadm (vbyteDec_large ht hex hr hv))
  · obtain ⟨hbelow, habove⟩ := runDecode_of_misplaced hadm (vbyteDec_of_trailerAt ht hex hr hv)
    exact ⟨fun hlt => exec_cmdDecode_of_error hw (hbelow hlt),
      fun hle hlong => exec_cmdDecode_of_error hw (habove hle hlong)⟩

end Sys2Proof.Machine
end

section
/-! PROOFS. The padding and the trailer length are the smallest that R140 asks for. -/

namespace Sys2Proof.Machine

/-- R140: no shorter length is that of the trailer it leads to. -/
theorem vlen_ne_of_lt_trailerLen {x t : Nat} (hpos : 1 ≤ t) (h : t < trailerLen x) : vlen (x + t) ≠ t := by
  have hfive : t < 5 := h.trans_le (vlen_trailerLen x ▸ vlen_le _)
  intro heq
  unfold trailerLen at h
  obtain rfl | rfl | rfl | rfl : t = 1 ∨ t = 2 ∨ t = 3 ∨ t = 4 := by omega
  all_goals split_ifs at h <;> omega

/-- R140: no smaller padding aligns the buffer's length. -/
theorem not_aligned_of_lt_padLen {S K P : Nat} (h : P < padLen S K) : (S + K + P + trailerLen (K + P)) % 4 ≠ 0 := by
  intro haligned
  obtain ⟨hsix, -⟩ := padLen_aligns S K
  obtain ⟨hle, -⟩ := padFrom_aligns haligned (fuel := 16) (Nat.zero_le P) (by omega)
  exact absurd h (not_lt.mpr hle)

/-- Settles O37: the padding is one that aligns within 6 bytes, and the loop passed no other on its way. -/
theorem paddingIsTheSmallestThatAligns : Obligations.PaddingIsTheSmallestThatAligns := fun S K =>
  have ⟨hsix, haligned⟩ := padLen_aligns S K
  ⟨hsix, haligned, fun _ => not_aligned_of_lt_padLen,
    fun _ => ⟨vlen_trailerLen _, fun _ => vlen_ne_of_lt_trailerLen⟩⟩

end Sys2Proof.Machine
end

section
/-! PROOFS. A started command whose word is none of the five (R63, R147). -/

namespace Sys2Proof.Machine

/-- R63: every word but 1 to 5 is rejected. -/
theorem decodeCommand_of_illegal {cw : Word} (h : cw.toNat = 0 ∨ 5 < cw.toNat) : ∃ r, decodeCommand cw = .error r := by
  cases hcw : decodeCommand cw with
  | error r => exact ⟨r, rfl⟩
  | ok i =>
    obtain ⟨hge, hle⟩ := (legalCommandWordsAreOneToFive cw).mp ⟨i, hcw⟩
    omega

theorem fetchCommand_of_error {s : State} {r : DecodeReject} (h : decodeCommand s.op = .error r) :
    fetchCommand s = .answer (.next (raiseError s Range.none .illegalCmd s.op.toNat)) := by
  rw [fetchCommand, h]

/-- Settles O8: the fetch raises the error, and a command at its first step has written nothing. -/
theorem illegalCommandWordEndsWithIllegalCmd : Obligations.IllegalCommandWordEndsWithIllegalCmd := by
  intro s hmoves hphase hwrote hillegal
  obtain ⟨r, hr⟩ := decodeCommand_of_illegal hillegal
  rw [← afterTurn_op s] at hr
  rw [← afterTurn_wrote] at hwrote
  rw [step_started hmoves hphase, fetchCommand_of_error hr, Turn.outcome, raiseError_unwritten hwrote, failedUnwritten,
    BitVec.ofNat_toNat, BitVec.setWidth_eq, ← afterTurn_op s, ← afterTurn_freeCtr s]
  rfl

end Sys2Proof.Machine
end

section
/-! PROOFS. The classifier's row of the table of value ranges (R77, R78, R151). -/

namespace Sys2Proof.Machine

/-- R78: the row of a width, which stands at the place its type code names. -/
def classRow (w : Width) : ClassRow := classTable[w.typeCode.toNat]'(by cases w <;> decide)

theorem classRow_mem_classTable (w : Width) : classRow w ∈ classTable := List.getElem_mem _

@[simp] theorem classRow_width (w : Width) : (classRow w).width = w.bits := by cases w <;> rfl

@[simp] theorem classRow_code (w : Width) : (classRow w).code = w.typeCode.toNat := by cases w <;> rfl

/-- R77, R78: a value stands in the range of its classified width: past the bounds of the widths tried before it, and
within its own. -/
theorem classRow_classify (v : Word) : (classRow (classify v)).lo ≤ v.toNat ∧ v.toNat ≤ (classRow (classify v)).hi := by
  have hv := v.isLt
  fun_cases classify v
  all_goals
    simp only [classRow, classTable, Width.typeCode, BitVec.reduceToNat, List.getElem_cons_zero, List.getElem_cons_succ]
    omega

/-- Settles O23: the row is that of ARG's classified width. -/
theorem classifyCompletesWithItsTableRow : Obligations.ClassifyCompletesWithItsTableRow := by
  intro s
  obtain ⟨hlo, hhi⟩ := classRow_classify s.ar
  refine ⟨classRow (classify s.ar), classRow_mem_classTable _, hlo, hhi, ?_⟩
  rw [classRow_width, classRow_code]
  rfl

end Sys2Proof.Machine
end

section
/-! PROOFS. VBYTE_ENC: the trailer's length by the table, and its bytes as two result words (R138, R139, R152). -/

namespace Sys2Proof.Machine

/-- R138: the row of a value's length holds the value. -/
theorem exists_lenRow {v : Nat} (hv : v < 2 ^ 32) :
    ∃ row ∈ lenTable, row.lo ≤ v ∧ v ≤ row.hi ∧ row.len = vlen v := by
  unfold vlen
  split_ifs with h7 h14 h21 h28
  · exact ⟨⟨0, 2 ^ 7 - 1, 1⟩, by decide, Nat.zero_le v, Nat.le_sub_one_of_lt h7, rfl⟩
  · exact ⟨⟨2 ^ 7, 2 ^ 14 - 1, 2⟩, by decide, not_lt.mp h7, Nat.le_sub_one_of_lt h14, rfl⟩
  · exact ⟨⟨2 ^ 14, 2 ^ 21 - 1, 3⟩, by decide, not_lt.mp h14, Nat.le_sub_one_of_lt h21, rfl⟩
  · exact ⟨⟨2 ^ 21, 2 ^ 28 - 1, 4⟩, by decide, not_lt.mp h21, Nat.le_sub_one_of_lt h28, rfl⟩
  · exact ⟨⟨2 ^ 28, 2 ^ 32 - 1, 5⟩, by decide, not_lt.mp h28, Nat.le_sub_one_of_lt hv, rfl⟩

/-- R46: the first `n` bytes of a list as a number, each byte at its place and 0 past the end. -/
theorem bytesLE_take : ∀ (n : Nat) (l : List Byte),
    bytesLE (l.take n) = ((List.range n).map (fun i => (l.getD i 0).toNat * 256 ^ i)).sum
  | 0, l => rfl
  | n + 1, [] => by simp [bytesLE]
  | n + 1, b :: l => by
    rw [List.take_succ_cons, bytesLE, bytesLE_take n l, List.range_succ_eq_map, List.map_cons, List.map_map,
      List.sum_cons, ← List.sum_map_mul_left]
    simp [Function.comp_def, pow_succ', Nat.mul_left_comm]

/-- R74: byte `i` of a value's encoding, 0 where there is none. -/
theorem vbyteEnc_getD_toNat (v i : Nat) :
    ((vbyteEnc v).getD i 0).toNat = if i < vlen v then trailerByte v i else 0 := by
  split_ifs with h
  · exact vbyteEnc_getD h
  · rw [List.getD_eq_default _ _ (by rw [vbyteEnc_length]; omega)]
    rfl

/-- R152: the first bytes of a value's encoding as a number. -/
theorem bytesLE_vbyteEnc_take (v n : Nat) : bytesLE ((vbyteEnc v).take n) =
    ((List.range n).map (fun i => if i < vlen v then trailerByte v i * 256 ^ i else 0)).sum := by
  simp only [bytesLE_take, vbyteEnc_getD_toNat, ite_mul, Nat.zero_mul]

/-- R152: byte 4, the only one past the first four. -/
theorem bytesLE_vbyteEnc_drop (v : Nat) : bytesLE ((vbyteEnc v).drop 4) = ((vbyteEnc v).getD 4 0).toNat := by
  have hlen : ((vbyteEnc v).drop 4).length ≤ 1 := by
    rw [List.length_drop, vbyteEnc_length]
    exact Nat.sub_le_of_le_add (vlen_le v)
  rw [← List.take_of_length_le hlen, bytesLE_take]
  simp

/-- R152: byte 4 in bits 7 to 0, the length above it. -/
theorem bytesLE_vbyteEnc_drop_or (v : Nat) : bytesLE ((vbyteEnc v).drop 4) ||| (vlen v <<< 8) =
    (if vlen v = 5 then trailerByte v 4 else 0) + vlen v * 256 := by
  have hfive : 4 < vlen v ↔ vlen v = 5 := by
    have := vlen_le v
    omega
  rw [bytesLE_vbyteEnc_drop, Nat.lor_comm, ← Nat.shiftLeft_add_eq_or_of_lt (BitVec.isLt _), vbyteEnc_getD_toNat,
    Nat.shiftLeft_eq, Nat.add_comm]
  simp only [hfive]

/-- Settles O25: the two result words are the encoding's bytes at their places and its length. -/
theorem vbyteEncCompletesWithTheTrailerBytes : Obligations.VbyteEncCompletesWithTheTrailerBytes := by
  intro s
  obtain ⟨row, hmem, hlo, hhi, hlen⟩ := exists_lenRow s.ar.isLt
  refine ⟨row, hmem, hlo, hhi, ?_⟩
  rw [hlen, ← bytesLE_vbyteEnc_take, ← bytesLE_vbyteEnc_drop_or, ← vbyteEnc_length]
  rfl

end Sys2Proof.Machine
end

section
/-! PROOFS. The reset input, and the idle engine's turn (R168 to R170). -/

namespace Sys2Proof.Machine

/-- R169: the reset input acts in one step, whatever the engine is doing. -/
theorem step_hwReset {s : State} {rest : List HostAction} (h : s.host = .hwReset :: rest) :
    step s = .next (hardwareReset { s with host := rest }) :=
  step_of_answer (by rw [nextTurn, h])

/-- R168, R170: an idle engine's turn changes nothing but the host action that gave it the turn. -/
theorem step_idle {s : State} (hphase : s.phase = .idle) (hmoves : EngineMoves s) : step s = .next (afterTurn s) :=
  step_of_answer (by rw [nextTurn_engine hmoves, engineTurn, afterTurn_phase, hphase])

theorem afterTurn_of_no_host {s : State} (h : s.host = []) : afterTurn s = s := by
  rw [afterTurn, h]

/-- Settles O19: the next state is the reset state over the same memory, or the idle state itself. -/
theorem hardwareResetAndIdleWait : Obligations.HardwareResetAndIdleWait := by
  intro s rest
  constructor
  · intro hhost
    exact ⟨hardwareReset { s with host := rest }, step_hwReset hhost, readReg_resetTo _ _, hardwareReset_phase _, rfl,
      hardwareReset_host _, hardwareReset_params _, hardwareReset_mem _⟩
  · intro hhost hphase
    rw [step_idle hphase (.inl hhost), afterTurn_of_no_host hhost]

end Sys2Proof.Machine
end

section
/-! PROOFS. The state after reset meets the invariant (R7, R24, R169). -/

namespace Sys2Proof.Machine

theorem busy_of_idle {s : State} (h : s.phase = .idle) : s.busy = false := by rw [State.busy, h]; rfl

/-- R24: while the engine is idle and no error is raised, the invariant asks only for memory in its canonical form,
MAX_N within R7, and ERRCODE 0. -/
theorem inv_of_idle_of_no_error {s : State} (hmem : Memory.wf s.mem = true) (hparams : s.params.wf)
    (hphase : s.phase = .idle) (herr : s.err = false) (herrcode : s.errcode = 0) : Inv s where
  mem := hmem
  params := hparams
  doneErr := by simp [herr]
  busyFlags := by simp [busy_of_idle hphase]
  busyErrinfo := by simp [busy_of_idle hphase]
  errcodeClear := fun _ => herrcode
  errcodeKnown := by simp [herr]
  opIsCmd := by simp [busy_of_idle hphase]
  startedClean := by simp [hphase]
  decode := by simp [hphase]

/-- R7: the reset state's MAX_N is the largest that R7 allows. -/
theorem wf_default_params : Params.default.wf := le_refl (2 ^ 28)

/-- Settles O51: R169 leaves the engine idle with no error raised, over the empty memory and the default parameters. -/
theorem resetMeetsTheInvariant : Obligations.ResetMeetsTheInvariant :=
  inv_of_idle_of_no_error (s := State.reset) rfl wf_default_params rfl rfl rfl

end Sys2Proof.Machine
end
